-- ==== Sys2Proof/Word.lean ====
section
/-! DEFINITION. The word types: a byte, the 32-bit logical id, the 13-byte image and the 8-byte payload
(00_scope.md rule R12, 20_memory.md rules R72 and R73). Every value is unsigned. -/

namespace Sys2Proof

/-- A byte: 8 bits (R12). -/
abbrev Byte := BitVec 8

/-- A logical id, the width of `ID_IN` and `ID_OUT` (R12, R42). -/
abbrev LogicalId := BitVec 32

/-- The 13-byte on-wire image (R43, R73): one flat array, offset 0 first. -/
abbrev Image := Vector Byte 13

/-- The caller's 8-byte data-out space (R72). -/
abbrev Payload := Vector Byte 8

end Sys2Proof
end

