-- ==== Sys2Proof/Syntax.lean ====
section
/-! DEFINITION. The instructions: one constructor per row of opcode_table.json (30_encoding.md rules R116 and R119),
and the two shapes in which an instruction stands on a port (R111, R118). -/

namespace Sys2Proof

/-- The two commands of the command port and the six transactions of the downstream port. A slot is the two-bit
field as it is encoded (R114, R118); which values name a buffer is WellFormed's. -/
inductive Instr where
  /-- TRANSMIT (R182): slot, `LEN`, and the 32-bit `ID` operand; its data operand is the caller's space `DIN`. -/
  | transmit (slot : BitVec 2) (len : Byte) (id : LogicalId)
  /-- RECEIVE (R185). -/
  | receive (slot : BitVec 2)
  /-- LOAD_TX (R211), with its 13 payload bytes in offset order. -/
  | loadTx (slot : BitVec 2) (payload : Image)
  /-- REQ_SEND (R212). -/
  | reqSend (slot : BitVec 2)
  /-- READ_RX (R213). -/
  | readRx (slot : BitVec 2)
  /-- READ_REG (R214). -/
  | readReg (addr : Byte)
  /-- WRITE_REG (R215). -/
  | writeReg (addr value : Byte)
  /-- MODIFY_REG (R216). -/
  | modifyReg (addr mask value : Byte)
  deriving DecidableEq, Repr

/-- What stands on the downstream port: the header `TXH` and the payload bytes (R118). -/
structure Transaction where
  txh     : BitVec 32
  payload : List Byte
  deriving DecidableEq, Repr

/-- An instruction as its port carries it: a command word with the operand `ID` (R111), or a transaction (R118). -/
inductive PortWord where
  | command (cmdw : BitVec 16) (id : LogicalId)
  | transaction (t : Transaction)
  deriving DecidableEq, Repr

/-- Why a word is no instruction. -/
inductive DecodeError where
  /-- A command word of R117: reserved `OP`, `RSV` not zero, or RECEIVE with `LEN` not zero. -/
  | illegalCommand
  /-- `KIND` 110 or 111 (R119). -/
  | reservedKind
  /-- A header field that R118 says is 0 for its kind is not 0. -/
  | reservedFieldSet
  /-- READ_RX with `TSLOT` 2 or 3: outside the row's fixed bits (R213). -/
  | noSuchReceiveSlot
  /-- LOAD_TX without exactly 13 payload bytes, or another kind with a payload (R119). -/
  | payloadLength
  deriving DecidableEq, Repr

end Sys2Proof
end

