-- ==== Sys2Proof/WellFormed.lean ====
section
/-! DEFINITION. Which instructions name a buffer that exists: transmit slots 0 to 2, receive slots 0 and 1
(00_scope.md rule R8 `N_TX` and `N_RX`, 30_encoding.md rule R114). -/

namespace Sys2Proof

/-- A transmit slot: TxB0, TxB1 or TxB2 (R114). -/
abbrev isTxSlot (slot : BitVec 2) : Bool := decide (slot.toNat < 3)

/-- A receive slot: RxB0 or RxB1 (R114). -/
abbrev isRxSlot (slot : BitVec 2) : Bool := decide (slot.toNat < 2)

/-- The instruction's slot, where it has one, names a buffer. -/
def Instr.wellFormed : Instr → Bool
  | .transmit slot _ _ => isTxSlot slot
  | .receive slot => isRxSlot slot
  | .loadTx slot _ => isTxSlot slot
  | .reqSend slot => isTxSlot slot
  | .readRx slot => isRxSlot slot
  | .readReg _ => true
  | .writeReg _ _ => true
  | .modifyReg _ _ _ => true

end Sys2Proof
end

