-- ==== Sys2Proof/Decode.lean ====
section
/-! DEFINITION. Decoding a port's word into an instruction, and encoding it back: the command word of 30_encoding.md
rule R111 and the transaction header of rule R118. Both are total; a word that is no instruction is rejected by name. -/

namespace Sys2Proof

/-- The field of `width` bits whose lowest bit is bit `lo` (R11). -/
def field {w : Nat} (lo width : Nat) (v : BitVec w) : BitVec width := v.extractLsb' lo width

/-- The command port (R111, R116, R117). A TRANSMIT with slot 3 and a RECEIVE with slot 2 or 3 are decoded; their
meaning raises INVALID_SLOT. A RECEIVE drops the operand `ID`, which has no effect (R112). -/
def decodeCommand (cmdw : BitVec 16) (id : LogicalId) : Except DecodeError Instr :=
  let op := field 14 2 cmdw
  let slot := field 12 2 cmdw
  let rsv := field 8 4 cmdw
  let len := field 0 8 cmdw
  if 2 ≤ op.toNat ∨ rsv ≠ 0 ∨ (op = 1 ∧ len ≠ 0) then .error .illegalCommand
  else if op = 0 then .ok (.transmit slot len id)
  else .ok (.receive slot)

/-- The 13 payload bytes of a LOAD_TX (R119), in offset order (R79). -/
def imageOfBytes (bytes : List Byte) : Option Image :=
  if h : bytes.length = 13 then some ⟨bytes.toArray, by simpa using h⟩ else none

/-- The downstream port (R118, R119): the kind decides the fields, every other field must be 0, and only LOAD_TX has a
payload. -/
def decodeTransaction (t : Transaction) : Except DecodeError Instr :=
  let kind := field 29 3 t.txh
  let tslot := field 27 2 t.txh
  let rsv := field 24 3 t.txh
  let addr := field 16 8 t.txh
  let mask := field 8 8 t.txh
  let value := field 0 8 t.txh
  if rsv ≠ 0 then .error .reservedFieldSet
  else if kind = 0 then
    if addr ≠ 0 ∨ mask ≠ 0 ∨ value ≠ 0 then .error .reservedFieldSet
    else match imageOfBytes t.payload with
      | some b => .ok (.loadTx tslot b)
      | none => .error .payloadLength
  else if 6 ≤ kind.toNat then .error .reservedKind
  else if t.payload ≠ [] then .error .payloadLength
  else if kind = 1 then
    if addr ≠ 0 ∨ mask ≠ 0 ∨ value ≠ 0 then .error .reservedFieldSet else .ok (.reqSend tslot)
  else if kind = 2 then
    if addr ≠ 0 ∨ mask ≠ 0 ∨ value ≠ 0 then .error .reservedFieldSet
    else if isRxSlot tslot then .ok (.readRx tslot) else .error .noSuchReceiveSlot
  else if tslot ≠ 0 then .error .reservedFieldSet
  else if kind = 3 then
    if mask ≠ 0 ∨ value ≠ 0 then .error .reservedFieldSet else .ok (.readReg addr)
  else if kind = 4 then
    if mask ≠ 0 then .error .reservedFieldSet else .ok (.writeReg addr value)
  else .ok (.modifyReg addr mask value)

/-- An instruction from either port. -/
def decode : PortWord → Except DecodeError Instr
  | .command cmdw id => decodeCommand cmdw id
  | .transaction t => decodeTransaction t

/-- Laying out `CMDW` (R111): `OP` 15..14, `SLOT` 13..12, `RSV` 11..8 zero, `LEN` 7..0. -/
def commandWord (op slot : BitVec 2) (len : Byte) : BitVec 16 := op ++ slot ++ (0 : BitVec 4) ++ len

/-- Laying out `TXH` (R118): `KIND` 31..29, `TSLOT` 28..27, three zero bits, `ADDR`, `MASK`, `VALUE`. -/
def header (kind : BitVec 3) (tslot : BitVec 2) (addr mask value : Byte) : BitVec 32 :=
  kind ++ tslot ++ (0 : BitVec 3) ++ addr ++ mask ++ value

/-- LOAD_TX on the port (R120, R211): the image goes out in offset order. -/
def loadTxWord (slot : BitVec 2) (b : Image) : Transaction := ⟨header 0 slot 0 0 0, b.toList⟩

/-- REQ_SEND on the port (R212). -/
def reqSendWord (slot : BitVec 2) : Transaction := ⟨header 1 slot 0 0 0, []⟩

/-- READ_RX on the port (R213). -/
def readRxWord (slot : BitVec 2) : Transaction := ⟨header 2 slot 0 0 0, []⟩

/-- READ_REG on the port (R214). -/
def readRegWord (addr : Byte) : Transaction := ⟨header 3 0 addr 0 0, []⟩

/-- WRITE_REG on the port (R215). -/
def writeRegWord (addr value : Byte) : Transaction := ⟨header 4 0 addr 0 value, []⟩

/-- MODIFY_REG on the port (R216). -/
def modifyRegWord (addr mask value : Byte) : Transaction := ⟨header 5 0 addr mask value, []⟩

/-- The encoder: the words of an instruction, from the layouts of R111 and R118. The operand `ID` that goes with a RECEIVE
is not given by R124 and not read by R112: that it is 0 is the model's choice (DESIGN CHOICE, log 32). -/
def encode : Instr → PortWord
  | .transmit slot len id => .command (commandWord 0 slot len) id
  | .receive slot => .command (commandWord 1 slot 0) 0
  | .loadTx slot b => .transaction (loadTxWord slot b)
  | .reqSend slot => .transaction (reqSendWord slot)
  | .readRx slot => .transaction (readRxWord slot)
  | .readReg addr => .transaction (readRegWord addr)
  | .writeReg addr value => .transaction (writeRegWord addr value)
  | .modifyReg addr mask value => .transaction (modifyRegWord addr mask value)

/-- The payload bytes, all zero, that complete a header of the table: 13 for `KIND` 000, none for the others (R119). -/
def zeroPayload (txh : BitVec 32) : List Byte := if field 29 3 txh = 0 then List.replicate 13 0 else []

/-- The host's view of the decoder: a 16-bit row is a command word with `ID` zero, a 32-bit row is a transaction
header with a payload of zeros. -/
def decodeTableWord (nbits w : Nat) : Option Instr :=
  if nbits = 16 then (decodeCommand (BitVec.ofNat 16 w) 0).toOption
  else if nbits = 32 then (decodeTransaction ⟨BitVec.ofNat 32 w, zeroPayload (BitVec.ofNat 32 w)⟩).toOption
  else none

end Sys2Proof
end

