-- ==== Sys2Proof/Config.lean ====
section
/-! DEFINITION. The configuration of an instance (00_scope.md rule R8) and the free values of the spec: the draws of
rule R13 and the OPEN parameters. A field's type holds exactly the values R8 and R10 call legal. -/

namespace Sys2Proof

/-- `EXIDE_BIT`: 2, 3 or 4 (R8, R10). -/
inductive ExideBit where
  | bit2 | bit3 | bit4
  deriving DecidableEq, Repr

/-- `DLC_RTR_BIT`: 4 to 7 (R8, R10). -/
inductive DlcRtrBit where
  | bit4 | bit5 | bit6 | bit7
  deriving DecidableEq, Repr

/-- `TX_DLC_MASK`: `0x0F` or `0xFF` (R8, D8). -/
inductive TxDlcMask where
  | lowNibble | wholeByte
  deriving DecidableEq, Repr

/-- `TX_EXT_LAYOUT` (R8, D6, conflict C1). -/
inductive TxExtLayout where
  | inverse | literal
  deriving DecidableEq, Repr

/-- `RX_FLAG_TEST` (R8, D7, conflict C5). -/
inductive RxFlagTest where
  | correct | precedenceDefect
  deriving DecidableEq, Repr

/-- One configuration of the block: the parameters of R8 that are not fixed. -/
structure Config where
  exideBit    : ExideBit
  dlcRtrBit   : DlcRtrBit
  /-- `RXRTR_BIT`, 0 to 7. -/
  rxrtrBit    : Fin 8
  txDlcMask   : TxDlcMask
  txExtLayout : TxExtLayout
  rxFlagTest  : RxFlagTest
  /-- `RXCTRL_ADDR(s)` for the receive slots 0 and 1 (OPEN, D5). -/
  rxctrlAddr  : Vector Byte 2
  deriving DecidableEq, Repr

/-- A draw (R13): the n-th value that no rule fixes. It has no body, so nothing can be proved of what it is. -/
opaque Config.drawByte : Nat → Byte

/-- The OPEN parameter `RXCTRL_ADDR` of the instance that comes out of reset: the spec stands behind no value (R8, D5).
Log 2. -/
opaque Config.openRxctrlAddr : Nat → Byte

/-- The default configuration of R8: the decided values, and the OPEN addresses left open. PRESUMED by the spec
itself for the three bit positions (93_implementation_defined.md K1 to K3). Log 22. -/
def Config.default : Config where
  exideBit    := .bit3
  dlcRtrBit   := .bit6
  rxrtrBit    := 3
  txDlcMask   := .lowNibble
  txExtLayout := .inverse
  rxFlagTest  := .correct
  rxctrlAddr  := #v[Config.openRxctrlAddr 0, Config.openRxctrlAddr 1]

/-- The OPEN type parameter `FailureValue` (R8, D34): which tokens are failure values. It has no body, so nothing can be
proved of which values there are or of how many. Log 5. -/
opaque Config.isFailureValue : Nat → Bool

/-- A value of the type `FailureValue` that the opaque parameter describes, beside the value of token 0, which only says
that the type is not empty. Up to renaming every non-empty countable type is one of these. The block stores and returns
a value and never looks inside (R217), and no definition of the model reads a token. Log 5. -/
structure FailureValue where
  token   : Nat
  isValue : token = 0 ∨ Config.isFailureValue token = true
  deriving DecidableEq, Repr

end Sys2Proof
end

