-- ==== Sys2Proof/Machine/State.lean ====
section
/-! DEFINITION. The state of the machine: the block's registers (10_state.md), the caller's spaces, the environment
(20_memory.md rules R70 and R93), and the model's own schedule; the reasons a step can stop; the state after reset
(70_reset_and_hazards.md rule R260). -/

namespace Sys2Proof.Machine

/-- A response of the environment (R34); the spec's `NONE` is the absence of one. -/
inductive Response where
  | ok
  | okByte (b : Byte)
  | okBytes (b : Image)
  | fail (f : FailureValue)
  deriving DecidableEq, Repr

/-- The codes of `PHASE` (R33). -/
def Phase.idle : BitVec 3 := 0
def Phase.txLoad : BitVec 3 := 1
def Phase.txRts : BitVec 3 := 2
def Phase.rxBuf : BitVec 3 := 3
def Phase.rxCtrl : BitVec 3 := 4
def Phase.faulted : BitVec 3 := 7

/-- The codes of `FAULT` (R232). -/
def FaultCode.none : BitVec 3 := 0
def FaultCode.illegalCommand : BitVec 3 := 1
def FaultCode.invalidSlot : BitVec 3 := 2
def FaultCode.dataUnderrun : BitVec 3 := 3
def FaultCode.reentry : BitVec 3 := 4
def FaultCode.badResponse : BitVec 3 := 5

/-- The codes of `CMD_OP` (R35) and of `RESULT` (R40, R230). -/
def CmdOp.transmit : BitVec 1 := 0
def CmdOp.receive : BitVec 1 := 1
def Result.ok : BitVec 1 := 0
def Result.busFail : BitVec 1 := 1

/-- An event of `TRACE` (R39). -/
inductive TraceEvent where
  | dinRead (i : Nat)
  | doutWrite (i : Nat) (v : Byte)
  | issue (t : Transaction)
  | resp (r : Response)
  | done (result : BitVec 1)
  deriving DecidableEq, Repr

/-- What the caller can read after a command (R274). -/
inductive OutRegister where
  | result | failval | idOut | lenOut
  | dout (i : Fin 8)
  deriving DecidableEq, Repr

/-- What the caller has read. -/
inductive Seen where
  | result (v : BitVec 1)
  | failval (f : FailureValue)
  | idOut (v : LogicalId)
  | lenOut (v : Byte)
  | dout (i : Fin 8) (v : Byte)
  deriving DecidableEq, Repr

/-- Whose transaction the environment is carrying out, so where its response goes (R210, R264). -/
inductive Requester where
  | block      -- the outstanding transaction of the block: the response goes to `RSP_IN`
  | software   -- the surrounding software's own transaction
  | nobody     -- a transaction the block has abandoned: the response is discarded (R234, R261)
  deriving DecidableEq, Repr

/-- One move of one agent (R4). A list of them in the state says which agent moves next, and with what (log 6). -/
inductive Turn where
  /-- The block takes its issue or consume step, if one is enabled (R181). -/
  | block
  /-- The caller presents a command: `CMDW`, `ID`, and the contents of `DIN` (R180). -/
  | command (cmdw : BitVec 16) (id : LogicalId) (din : List Byte)
  /-- The environment carries out the outstanding transaction and answers it (R93, R211 to R216). -/
  | serve
  /-- The environment answers the outstanding transaction with any response at all (R218). -/
  | answer (r : Response)
  /-- The environment carries out the n-th transaction the block has abandoned (R234, R261). -/
  | serveOrphan (n : Nat)
  /-- The surrounding software issues a transaction of its own to the same controller (R243, R264). -/
  | software (t : Transaction)
  /-- The environment changes controller state on its own (R91). -/
  | changeTxb (slot : Fin 3) (b : Image)
  | changeRxb (slot : Fin 2) (b : Image)
  | changeReg (addr value : Byte)
  | changeTxreq (slot : Fin 3) (requested : Bool)
  /-- The caller changes its own spaces (R193, R267). -/
  | setDin (bytes : List Byte)
  | setDout (bytes : Payload)
  /-- The caller reads a response register or a byte of `DOUT` (R274). -/
  | read (r : OutRegister)
  /-- The reset input is asserted (R260, R261). -/
  | reset
  deriving DecidableEq, Repr

/-- A byte memory: (address, byte) cells with addresses strictly rising. An unlisted address has no value fixed
yet, so no entry can equal what an unlisted address reads as (log 10). -/
abbrev Memory := List Host.Cell

/-- The canonical form of `REG`: addresses strictly rising, and all of 8 bits (R77). -/
abbrev Memory.wf (m : Memory) : Bool :=
  decide (m.Pairwise fun a b => a.1 < b.1) && m.all fun c => decide (c.1 < 256)

/-- The environment's state (R70, R93). -/
structure Env where
  txb   : Vector Image 3
  rxb   : Vector Image 2
  reg   : Memory
  txreq : Vector Bool 3
  /-- `FAILS`: which transactions fail, by index, and with what (R93). -/
  fails : List (Nat × FailureValue)
  /-- k: the index of the next transaction since reset (R93). -/
  taken : Nat
  deriving DecidableEq, Repr

/-- The whole machine. -/
structure State where
  /-- The instance's configuration (R8); no step changes it. -/
  cfg : Config
  -- the block's registers (R33 to R40)
  phase    : BitVec 3
  await    : Bool
  rspIn    : Option Response
  cmdOp    : Option (BitVec 1)
  cmdSlot  : Option (BitVec 2)
  idIn     : Option LogicalId
  lenIn    : Option Byte
  buf      : Image
  stat     : Option Byte
  result   : Option (BitVec 1)
  failval  : Option FailureValue
  idOut    : Option LogicalId
  lenOut   : Option Byte
  faultReg : BitVec 3
  trace    : List TraceEvent
  /-- The downstream port: the transaction issued and not yet answered (R118, R210). -/
  port     : Option Transaction
  -- the caller
  din      : List Byte
  dout     : Payload
  seen     : List Seen
  -- the environment
  env         : Env
  /-- Transactions the block has abandoned and the environment may still carry out, oldest first (R234, R261). -/
  orphans     : List Transaction
  requester   : Requester
  softwareRsp : Option Response
  -- the model's own fields
  /-- Which agent moves next, first move first (log 6). -/
  agenda : List Turn
  /-- How many draws have been taken (R13, log 3). -/
  draws  : Nat
  deriving DecidableEq, Repr

/-- The registers the spec marks unwritten at times (R35, R37, R40). -/
inductive RegisterName where
  | cmdOp | cmdSlot | result | failval | idOut | lenOut
  deriving DecidableEq, Repr

/-- Why the machine stops. -/
inductive Fault where
  /-- Reading a register that holds no value (R14, D37). Raised by the caller's read of a response register before it
  is written, and by a block step that finds `CMD_OP` or `CMD_SLOT` unwritten (no run reaches that). Safe. -/
  | unwrittenRegister (r : RegisterName)
  /-- `PHASE` at 5 or 6 (R33). Raised by the block's steps; no run reaches it. Safe. -/
  | phaseNeverWritten
  /-- `FAULT` at 6 or 7 (R232). Raised by the block's steps; no run reaches it. Safe. -/
  | faultCodeNeverWritten
  /-- `RXCTRL_ADDR` of a slot that is no receive slot (R8, R49). Raised by the RX_CTRL issue step; no run reaches
  it. Safe. -/
  | noControlRegister
  deriving DecidableEq, Repr

/-- Why an instruction or a configuration is given no meaning. -/
inductive Refusal where
  /-- An instruction whose arm of `exec` has no meaning yet. No arm is so. Safe. -/
  | notModelled (mnemonic : String)
  /-- A transaction whose slot names no buffer (R211 to R213 give slots 0 to 2 and 0 to 1 only). Raised by the
  environment carrying out LOAD_TX, REQ_SEND or READ_RX. Safe. -/
  | noSuchBuffer
  /-- A header that is no transaction: a reserved kind, or a field set that R118 says is 0 (R119, R121, I22). Raised
  when the environment is handed one. Safe. -/
  | notATransaction (e : DecodeError)
  /-- A configuration outside the ranges of R10. Raised when an instance is configured. Safe. -/
  | illegalConfiguration
  deriving DecidableEq, Repr

/-- `n` draws starting with the k-th. -/
def drawVector (k n : Nat) : Vector Byte n := Vector.ofFn fun i => Config.drawByte (k + i)

/-- A draw of one bit: the k-th draw's lowest bit. -/
def drawBit (k : Nat) : Bool := (Config.drawByte k).getLsbD 0

/-- The machine right after reset (R260): IDLE, no transaction, no fault, an empty trace, every latch and response
register unwritten, `BUF` draws. What the block's reset does not touch (R261) holds draws, or nothing (log 9, 10). -/
def State.reset : State where
  cfg := Config.default
  phase := Phase.idle
  await := false
  rspIn := none
  cmdOp := none
  cmdSlot := none
  idIn := none
  lenIn := none
  buf := drawVector 0 13
  stat := none
  result := none
  failval := none
  idOut := none
  lenOut := none
  faultReg := FaultCode.none
  trace := []
  port := none
  din := []
  dout := drawVector 13 8
  seen := []
  env :=
    { txb := #v[drawVector 21 13, drawVector 34 13, drawVector 47 13]
      rxb := #v[drawVector 60 13, drawVector 73 13]
      reg := []
      txreq := #v[drawBit 86, drawBit 87, drawBit 88]
      fails := []
      taken := 0 }
  orphans := []
  requester := .nobody
  softwareRsp := none
  agenda := []
  draws := 89

end Sys2Proof.Machine
end

