-- ==== Sys2Proof/Machine/Ops.lean ====
section
/-! DEFINITION. The named operations over the state: the register memory, the draws, raising a fault and the reset that
alone leaves it, answering a transaction, abandoning one, completing a command, and the caller's reads. -/

namespace Sys2Proof.Machine

/-- The outcome of a step of this machine. -/
abbrev Out := Host.Outcome State Fault Refusal

/-! Reading a register that may be unwritten. -/

/-- Reading a register of the block (R14, D37): "A register that a rule marks *unwritten* holds no value. A model must fault
on reading it, never return zero or a fixed value." This is the one place that raises that fault. -/
def readWritten {α : Type} (r : RegisterName) : Option α → Except Fault α
  | none => .error (.unwrittenRegister r)
  | some v => .ok v

/-! The register memory `REG` (R77). -/

/-- The byte at an address, where one is fixed. -/
def readCell : Memory → Nat → Option Byte
  | [], _ => none
  | (b, v) :: m, a => if b = a then some v else readCell m a

/-- Writing one byte keeps the cells in rising order, one cell an address. -/
def writeCell : Memory → Nat → Byte → Memory
  | [], a, v => [(a, v)]
  | (b, w) :: m, a, v =>
    if a < b then (a, v) :: (b, w) :: m
    else if a = b then (a, v) :: m
    else (b, w) :: writeCell m a v

/-! Draws (R13). -/

/-- The next `n` draws, as a vector; the caller of it advances the counter. -/
def nextDraws (s : State) (n : Nat) : Vector Byte n := drawVector s.draws n

/-- The value of a controller register: the one fixed, or else the next draw. -/
def registerValue (addr : Byte) (s : State) : Byte :=
  (readCell s.env.reg addr.toNat).getD (Config.drawByte s.draws)

/-- Reading a controller register whose value nothing has fixed yet fixes it, so that a later reading gives the same
(R77, R93). -/
def fixRegister (addr : Byte) (s : State) : State :=
  { s with
    env := { s.env with
      reg := if (readCell s.env.reg addr.toNat).isSome then s.env.reg
        else writeCell s.env.reg addr.toNat (Config.drawByte s.draws) }
    draws := if (readCell s.env.reg addr.toNat).isSome then s.draws else s.draws + 1 }

/-- A write of a controller register. -/
def writeRegister (addr value : Byte) (s : State) : State :=
  { s with env := { s.env with reg := writeCell s.env.reg addr.toNat value } }

/-! Faults and reset. -/

/-- The outstanding transaction, if there is one, is given up: it may still take effect, and its response will not be
consumed (R234, R261). -/
def abandonPort (s : State) : State :=
  { s with port := none, orphans := s.orphans ++ s.port.toList }

/-- `raise Fault(code)` (R234): the fault code, the FAULTED phase, no outstanding transaction, and nothing else. -/
def raiseFault (code : BitVec 3) (s : State) : State :=
  { abandonPort s with
    faultReg := code
    phase := Phase.faulted
    await := false
    rspIn := none }

/-- The reset input (R260, R261), the only way out of FAULTED (R241): every register of the block takes its reset value,
an outstanding transaction is abandoned, and the controller and the caller's spaces are not touched. The index k of R93
counts the transactions since reset. -/
def resetBlock (s : State) : State :=
  { abandonPort s with
    phase := Phase.idle
    await := false
    rspIn := none
    cmdOp := none
    cmdSlot := none
    idIn := none
    lenIn := none
    buf := nextDraws s 13
    stat := none
    result := none
    failval := none
    idOut := none
    lenOut := none
    faultReg := FaultCode.none
    trace := []
    env := { s.env with taken := 0 }
    draws := s.draws + 13 }

/-- `PHASE` at 5 or 6, or `FAULT` at 6 or 7: a model that finds one faults (R33, R232). -/
def corruptRegister (s : State) : Option Fault :=
  if s.phase = 5 ∨ s.phase = 6 then some .phaseNeverWritten
  else if 6 ≤ s.faultReg.toNat then some .faultCodeNeverWritten
  else none

/-! Transactions, seen from the environment. -/

/-- `RSP_IN` takes a response, and the transaction is no longer outstanding. -/
def storeResponse (r : Response) (s : State) : State := { s with rspIn := some r, port := none }

/-- The response of a transaction that the surrounding software issued. -/
def answerSoftware (r : Response) (s : State) : State := { s with softwareRsp := some r }

/-- The response step (R181): the block's slot `RSP_IN` takes a response while `AWAIT` is 1 and it is empty, and the
transaction is no longer outstanding. -/
def answerBlock (r : Response) (s : State) : State :=
  if s.await ∧ s.rspIn = none then storeResponse r s else s

/-- The response of the transaction being carried out goes to whoever issued it. -/
def respond (r : Response) (s : State) : State :=
  match s.requester with
  | .block => answerBlock r s
  | .software => answerSoftware r s
  | .nobody => s

/-- The environment takes one more transaction (R93). -/
def takeTransaction (s : State) : State := { s with env := { s.env with taken := s.env.taken + 1 } }

/-- The failure scheduled for the transaction about to be taken, if any (R93, R217). -/
def scheduledFailure (s : State) : Option FailureValue := s.env.fails.lookup s.env.taken

/-- Carrying out a transaction as one atomic step (R219): the scheduled failure is answered and nothing is done, or
else the effect is done and its success response is answered. -/
def carryOut (effect : State → State) (success : Response) (s : State) : State :=
  match scheduledFailure s with
  | some f => respond (.fail f) (takeTransaction s)
  | none => respond success (effect (takeTransaction s))

/-! The end of a command. -/

/-- The values a completed command no longer holds, the `DONE` event, and IDLE (R188). -/
def finish (res : BitVec 1) (s : State) : State :=
  { s with
    result := some res
    idIn := none
    lenIn := none
    stat := none
    trace := s.trace ++ [.done res]
    phase := Phase.idle }

/-- `complete(OK)` (R188). -/
def completeOk (s : State) : State := finish Result.ok s

/-- The outputs of a failed RECEIVE (R189): the id and the length unwritten, and eight draws in `DOUT`. -/
def failReceiveOutputs (s : State) : State :=
  { s with
    idOut := none
    lenOut := none
    dout := nextDraws s 8
    draws := s.draws + 8 }

/-- `FAILVAL` takes the failure unchanged (R188, R217). -/
def storeFailval (f : FailureValue) (s : State) : State := { s with failval := some f }

/-- `complete(BUS_FAIL, f)` (R188, R231): `FAILVAL` takes f unchanged. It reads `CMD_OP`, and reading that while it is
unwritten faults (R14), which no run reaches. -/
def completeFail (f : FailureValue) (s : State) : Out :=
  match readWritten .cmdOp s.cmdOp with
  | .error e => .fault e
  | .ok op =>
    if op = CmdOp.receive then .next (finish Result.busFail (failReceiveOutputs (storeFailval f s)))
    else .next (finish Result.busFail (storeFailval f s))

/-! The schedule and the caller. -/

/-- The turns that are left. -/
def keepTurns (rest : List Turn) (s : State) : State := { s with agenda := rest }

/-- Whose transaction is being carried out. -/
def serveFor (who : Requester) (s : State) : State := { s with requester := who }

/-- The n-th abandoned transaction is no longer to come. -/
def dropOrphan (n : Nat) (s : State) : State := { s with orphans := s.orphans.eraseIdx n }

/-- The caller's data-in space (R71). -/
def provideDin (bytes : List Byte) (s : State) : State := { s with din := bytes }

/-- The caller's data-out space (R72). -/
def provideDout (bytes : Payload) (s : State) : State := { s with dout := bytes }

/-- What the caller has read (R274). -/
def recordSeen (v : Seen) (s : State) : State := { s with seen := s.seen ++ [v] }

/-- What a read of a response register or of a byte of `DOUT` gives. Reading an unwritten register faults: that is the
spec's own rule (R14, R260, R274, D37). No rule makes a byte of `DOUT` unwritten: that a read of it before `DONE`, or past
`min(LEN_OUT, 8)`, answers the byte held and does not fault is the model's choice (DESIGN CHOICE, log 33). -/
def readOut (r : OutRegister) (s : State) : Except Fault Seen :=
  match r with
  | .result => (readWritten .result s.result).map Seen.result
  | .failval => (readWritten .failval s.failval).map Seen.failval
  | .idOut => (readWritten .idOut s.idOut).map Seen.idOut
  | .lenOut => (readWritten .lenOut s.lenOut).map Seen.lenOut
  | .dout i => .ok (.dout i s.dout[i])

end Sys2Proof.Machine
end

