-- ==== Sys2Proof/Machine/Operands.lean ====
section
/-! DEFINITION. The operand forms: the fields of the image (20_memory.md rules R73 and R74), the masks of the
configuration (00_scope.md rule R8), the payload counts, the slots as buffer indexes, and configuring an instance. -/

namespace Sys2Proof.Machine

/-! Constants of R8. -/

abbrev effFlag : LogicalId := 0x20000000
abbrev rtrFlag : LogicalId := 0x40000000
abbrev dlcRxMask : Byte := 0x0F

/-! The named fields of the image are accessors over the one array (R74). -/

def sidh (b : Image) : Byte := b[0]
def sidl (b : Image) : Byte := b[1]
def eid8 (b : Image) : Byte := b[2]
def eid0 (b : Image) : Byte := b[3]
def dlc (b : Image) : Byte := b[4]
/-- `DATA[i]` is `BUF[5+i]`. -/
def data (b : Image) (i : Fin 8) : Byte := b[5 + i.val]

def setSidh (x : Byte) (b : Image) : Image := b.set 0 x
def setSidl (x : Byte) (b : Image) : Image := b.set 1 x
def setEid8 (x : Byte) (b : Image) : Image := b.set 2 x
def setEid0 (x : Byte) (b : Image) : Image := b.set 3 x
def setDlc (x : Byte) (b : Image) : Image := b.set 4 x
/-- Writing `DATA[i]`; there is no DATA byte past the seventh. -/
def setData (i : Nat) (x : Byte) (b : Image) : Image := b.setIfInBounds (5 + i) x

/-! Masks of the configuration (R8). -/

/-- The bit number `EXIDE_BIT`. -/
def exideIndex (c : Config) : Nat :=
  match c.exideBit with
  | .bit2 => 2
  | .bit3 => 3
  | .bit4 => 4

/-- The bit number `DLC_RTR_BIT`. -/
def dlcRtrIndex (c : Config) : Nat :=
  match c.dlcRtrBit with
  | .bit4 => 4
  | .bit5 => 5
  | .bit6 => 6
  | .bit7 => 7

/-- `EXIDE_MASK` = `1 << EXIDE_BIT`. -/
def exideMask (c : Config) : Byte := (1 : Byte) <<< exideIndex c

/-- `DLC_RTR_MASK` = `1 << DLC_RTR_BIT`. -/
def dlcRtrMask (c : Config) : Byte := (1 : Byte) <<< dlcRtrIndex c

/-- `RXRTR_MASK` = `1 << RXRTR_BIT`. -/
def rxrtrMask (c : Config) : Byte := (1 : Byte) <<< c.rxrtrBit.val

/-- `TX_DLC_MASK`. -/
def txDlcMaskByte (c : Config) : Byte :=
  match c.txDlcMask with
  | .lowNibble => 0x0F
  | .wholeByte => 0xFF

/-- `RXCTRL_ADDR(s)`: there is one for the receive slots 0 and 1 only. -/
def rxctrlAddrOf (c : Config) (slot : BitVec 2) : Option Byte := c.rxctrlAddr[slot.toNat]?

/-- An instance is configured from numbers; a configuration outside the ranges of R8 and R10 is refused. -/
def configure (exide dlcRtr rxrtr : Nat) (txDlcMask : Byte) (layout : TxExtLayout) (flagTest : RxFlagTest)
    (rxctrl : Vector Byte 2) : Except Refusal Config :=
  let exideBit : Option ExideBit :=
    if exide = 2 then some .bit2 else if exide = 3 then some .bit3 else if exide = 4 then some .bit4 else none
  let dlcRtrBit : Option DlcRtrBit :=
    if dlcRtr = 4 then some .bit4 else if dlcRtr = 5 then some .bit5
    else if dlcRtr = 6 then some .bit6 else if dlcRtr = 7 then some .bit7 else none
  let mask : Option TxDlcMask :=
    if txDlcMask = 0x0F then some .lowNibble else if txDlcMask = 0xFF then some .wholeByte else none
  match exideBit, dlcRtrBit, mask with
  | some e, some d, some m =>
    if h : rxrtr < 8 then .ok ⟨e, d, ⟨rxrtr, h⟩, m, layout, flagTest, rxctrl⟩ else .error .illegalConfiguration
  | _, _, _ => .error .illegalConfiguration

/-! Counts and slots. -/

/-- TX_COUNT (R141), and the same bound on receive (R156): `min(length, 8)`. -/
def payloadCount (len : Byte) : Nat := min len.toNat 8

/-- The index of a transmit buffer, for a slot that names one (R75). -/
def txSlot? (slot : BitVec 2) : Option (Fin 3) := if h : slot.toNat < 3 then some ⟨slot.toNat, h⟩ else none

/-- The index of a receive buffer, for a slot that names one (R76). -/
def rxSlot? (slot : BitVec 2) : Option (Fin 2) := if h : slot.toNat < 2 then some ⟨slot.toNat, h⟩ else none

end Sys2Proof.Machine
end

