-- ==== Sys2Proof/Machine/Flags.lean ====
section
/-! DEFINITION. The transient flags (10_state.md rule R41): TX_FLAGS, FLAG_TEST and RX_EXT_TEST
(40_marshaller.md rules R140, R151, R152, and the test of R154). No flag is stored. -/

namespace Sys2Proof.Machine

/-- `is_extended` on transmit (R140): `(ID_IN & EFF_FLAG) != 0`. -/
def isExtended (id : LogicalId) : Bool := (id &&& effFlag) != 0

/-- `is_rtr` on transmit (R140): `(ID_IN & RTR_FLAG) != 0`. -/
def isRtr (id : LogicalId) : Bool := (id &&& rtrFlag) != 0

/-- FLAG_TEST (R151), in both its modes. -/
def flagTest (c : Config) (x mask : Byte) : Bool :=
  match c.rxFlagTest with
  | .correct => (x &&& mask) == mask
  | .precedenceDefect => (x &&& 1) != 0

/-- RX_EXT_TEST (R152). -/
def rxExtended (c : Config) (b : Image) : Bool := flagTest c (sidl b) (exideMask c)

/-- The test of RX_RTR (R154): the RTR indicator of the receive control-status byte. -/
def rxRtr (c : Config) (stat : Byte) : Bool := flagTest c stat (rxrtrMask c)

end Sys2Proof.Machine
end

