-- ==== Sys2Proof/Machine/Marshaller.lean ====
section
/-! DEFINITION. The frame marshaller (40_marshaller.md): ENCODE_FRAME on transmit, DECODE_FRAME on receive. It is
combinational, so these are functions of their operands. -/

namespace Sys2Proof.Machine

/-! Transmit side. -/

/-- ENCODE_ID_STD (R142). -/
def encodeIdStd (id : LogicalId) (b : Image) : Image :=
  setEid0 0 (setEid8 0 (setSidl ((field 0 3 id).zeroExtend 8 <<< 5) (setSidh (field 3 8 id) b)))

/-- ENCODE_ID_EXT_INVERSE (R143), the default layout. -/
def encodeIdExtInverse (c : Config) (id : LogicalId) (b : Image) : Image :=
  setEid0 (field 0 8 id) (setEid8 (field 8 8 id)
    (setSidl (((field 18 3 id).zeroExtend 8 <<< 5) ||| exideMask c ||| (field 16 2 id).zeroExtend 8)
      (setSidh (field 21 8 id) b)))

/-- ENCODE_ID_EXT_LITERAL (R144). -/
def encodeIdExtLiteral (c : Config) (id : LogicalId) (b : Image) : Image :=
  setEid0 (field 11 8 id) (setEid8 (field 19 8 id)
    (setSidl (((field 0 3 id).zeroExtend 8 <<< 5) ||| exideMask c ||| (field 27 2 id).zeroExtend 8)
      (setSidh (field 3 8 id) b)))

/-- The id bytes of the image (R149's first three lines). -/
def encodeId (c : Config) (id : LogicalId) (b : Image) : Image :=
  if isExtended id then
    match c.txExtLayout with
    | .inverse => encodeIdExtInverse c id b
    | .literal => encodeIdExtLiteral c id b
  else encodeIdStd id b

/-- ENCODE_DLC (R146). -/
def dlcByte (c : Config) (id : LogicalId) (len : Byte) : Byte :=
  (len &&& txDlcMaskByte c) ||| (if isRtr id then dlcRtrMask c else 0)

/-- ENCODE_DATA (R147) from byte i on: `DATA[i]`, `DATA[i+1]`, … take the bytes; the rest stay (R148). -/
def copyIn : List Byte → Nat → Image → Image
  | [], _, b => b
  | x :: xs, i, b => copyIn xs (i + 1) (setData i x b)

/-- ENCODE_FRAME (R149) over an image that holds the draws of the command (R36). -/
def encodeFrame (c : Config) (id : LogicalId) (len : Byte) (din : List Byte) (b : Image) : Image :=
  copyIn (din.take (payloadCount len)) 0 (setDlc (dlcByte c id len) (encodeId c id b))

/-- The `DIN_READ` events of ENCODE_DATA (R147, R92): offsets 0 to n-1, rising. -/
def dinReads (len : Byte) : List TraceEvent := (List.range (payloadCount len)).map TraceEvent.dinRead

/-! Receive side. -/

/-- DECODE_BASE (R150). -/
def decodeBase (b : Image) : LogicalId := ((sidh b).zeroExtend 32 <<< 3) ||| (sidl b >>> 5).zeroExtend 32

/-- DECODE_EXT (R153), from the base id. -/
def decodeExt (b : Image) (id : LogicalId) : LogicalId :=
  let id1 := (id <<< 2) ||| (sidl b &&& 0x03).zeroExtend 32
  let id2 := (id1 <<< 8) ||| (eid8 b).zeroExtend 32
  let id3 := (id2 <<< 8) ||| (eid0 b).zeroExtend 32
  id3 ||| effFlag

/-- The id of DECODE_FRAME (R157): base, extended part, RTR (R154). -/
def decodeId (c : Config) (b : Image) (stat : Byte) : LogicalId :=
  let id := if rxExtended c b then decodeExt b (decodeBase b) else decodeBase b
  if rxRtr c stat then id ||| rtrFlag else id

/-- DECODE_LEN (R155). -/
def decodeLen (b : Image) : Byte := dlc b &&& dlcRxMask

/-- The first n payload bytes of an image: `DATA[0]` to `DATA[n-1]`. -/
def dataBytes (b : Image) (n : Nat) : List Byte := (b.toList.drop 5).take n

/-- DECODE_DATA (R156) from byte i on: `DOUT[i]`, `DOUT[i+1]`, … take the bytes; the rest stay (R72). -/
def copyOut : List Byte → Nat → Payload → Payload
  | [], _, d => d
  | x :: xs, i, d => copyOut xs (i + 1) (d.setIfInBounds i x)

/-- The `DOUT_WRITE` events of DECODE_DATA (R156, R92), from byte i on. -/
def doutWrites : List Byte → Nat → List TraceEvent
  | [], _ => []
  | x :: xs, i => .doutWrite i x :: doutWrites xs (i + 1)

/-- The bytes a successful RECEIVE copies: `min(LEN_OUT, 8)` of them (R156). -/
def receivedBytes (b : Image) : List Byte := dataBytes b (payloadCount (decodeLen b))

/-- DECODE_FRAME (R157) on the registers: it reads `BUF` and the receive control-status byte and writes `ID_OUT`,
`LEN_OUT` and `DOUT`. -/
def decodeFrame (stat : Byte) (s : State) : State :=
  { s with
    idOut := some (decodeId s.cfg s.buf stat)
    lenOut := some (decodeLen s.buf)
    dout := copyOut (receivedBytes s.buf) 0 s.dout
    trace := s.trace ++ doutWrites (receivedBytes s.buf) 0 }

end Sys2Proof.Machine
end

