-- ==== Sys2Proof/Machine/Commands.lean ====
section
/-! DEFINITION. The commands TRANSMIT and RECEIVE (41_sequencer.md rules R180, R182, R185): the acceptance step. The
block's later turns run the phases the command set going (Machine/Sequencer.lean). -/

namespace Sys2Proof.Machine

/-- The first two lines of `accept` (R180, R236): FAULTED is held, any other phase but IDLE raises REENTRY. It answers
nothing where the block is in IDLE and goes on to look at the word. -/
def acceptGate (s : State) : Option Out :=
  match corruptRegister s with
  | some f => some (.fault f)
  | none =>
    if s.phase = Phase.faulted then some (.next s)
    else if s.phase = Phase.idle then none
    else some (.next (raiseFault FaultCode.reentry s))

/-- What every accepted command writes (R180): the response registers and `STAT` unwritten, `BUF` redrawn, the latches,
no transaction outstanding. -/
def latch (op : BitVec 1) (slot : BitVec 2) (s : State) : State :=
  { s with
    result := none
    failval := none
    idOut := none
    lenOut := none
    stat := none
    buf := nextDraws s 13
    draws := s.draws + 13
    cmdOp := some op
    cmdSlot := some slot
    await := false
    rspIn := none }

/-- An accepted TRANSMIT (R180, R182): the operands latched, the image encoded, `DIN` read, TX_LOAD next. -/
def acceptTransmit (slot : BitVec 2) (len : Byte) (id : LogicalId) (s : State) : State :=
  { latch CmdOp.transmit slot s with
    idIn := some id
    lenIn := some len
    buf := encodeFrame s.cfg id len s.din (nextDraws s 13)
    trace := s.trace ++ dinReads len
    phase := Phase.txLoad }

/-- An accepted RECEIVE (R180, R185): RX_BUF next. -/
def acceptReceive (slot : BitVec 2) (s : State) : State :=
  { latch CmdOp.receive slot s with
    idIn := none
    lenIn := none
    phase := Phase.rxBuf }

/-- TRANSMIT presented to the block (R182). -/
def execTransmit (slot : BitVec 2) (len : Byte) (id : LogicalId) (s : State) : Out :=
  match acceptGate s with
  | some o => o
  | none =>
    if 2 < slot.toNat then .next (raiseFault FaultCode.invalidSlot s)
    else if s.din.length < payloadCount len then .next (raiseFault FaultCode.dataUnderrun s)
    else .next (acceptTransmit slot len id s)

/-- RECEIVE presented to the block (R185). -/
def execReceive (slot : BitVec 2) (s : State) : Out :=
  match acceptGate s with
  | some o => o
  | none =>
    if 1 < slot.toNat then .next (raiseFault FaultCode.invalidSlot s)
    else .next (acceptReceive slot s)

/-- A word that is no command, presented to the block: ILLEGAL_COMMAND, after the checks that come before it (R117,
R236). -/
def acceptIllegal (s : State) : Out :=
  match acceptGate s with
  | some o => o
  | none => .next (raiseFault FaultCode.illegalCommand s)

end Sys2Proof.Machine
end

