-- ==== Sys2Proof/Machine/Transactions.lean ====
section
/-! DEFINITION. The six transactions (42_register_io.md rules R211 to R216), as the environment carries them out. An
environment that does otherwise is a matter of its own turns (Machine/Agents.lean). -/

namespace Sys2Proof.Machine

/-- `TXB[i] <- b`. -/
def storeTxb (i : Fin 3) (b : Image) (s : State) : State := { s with env := { s.env with txb := s.env.txb.set i b } }

/-- `RXB[i] <- b`: a frame arrives, or the controller changes the buffer (R91). -/
def storeRxb (i : Fin 2) (b : Image) (s : State) : State := { s with env := { s.env with rxb := s.env.rxb.set i b } }

/-- `TXREQ[i] <- v`. -/
def setTxreq (i : Fin 3) (v : Bool) (s : State) : State :=
  { s with env := { s.env with txreq := s.env.txreq.set i v } }

/-- The masked update of MODIFY_REG (R216): `(old & ~m) | (v & m)`. -/
def maskedUpdate (old mask value : Byte) : Byte := (old &&& ~~~mask) ||| (value &&& mask)

/-- LOAD_TX (R211). -/
def execLoadTx (slot : BitVec 2) (payload : Image) (s : State) : Out :=
  match txSlot? slot with
  | none => .refused .noSuchBuffer
  | some i => .next (carryOut (storeTxb i payload) .ok s)

/-- REQ_SEND (R212). -/
def execReqSend (slot : BitVec 2) (s : State) : Out :=
  match txSlot? slot with
  | none => .refused .noSuchBuffer
  | some i => .next (carryOut (setTxreq i true) .ok s)

/-- READ_RX (R213). -/
def execReadRx (slot : BitVec 2) (s : State) : Out :=
  match rxSlot? slot with
  | none => .refused .noSuchBuffer
  | some i => .next (carryOut id (.okBytes s.env.rxb[i]) s)

/-- READ_REG (R214). -/
def execReadReg (addr : Byte) (s : State) : Out :=
  .next (carryOut (fixRegister addr) (.okByte (registerValue addr s)) s)

/-- WRITE_REG (R215). -/
def execWriteReg (addr value : Byte) (s : State) : Out :=
  .next (carryOut (writeRegister addr value) .ok s)

/-- MODIFY_REG (R216), one atomic read-modify-write. Where the register's value is not fixed yet, the bits the mask
keeps come from a draw. -/
def execModifyReg (addr mask value : Byte) (s : State) : Out :=
  .next (carryOut
    (fun t => writeRegister addr (maskedUpdate (registerValue addr t) mask value) (fixRegister addr t)) .ok s)

end Sys2Proof.Machine
end

