-- ==== Sys2Proof/Machine/Dispatch.lean ====
section
/-! DEFINITION. The one dispatch from an instruction to its meaning. -/

namespace Sys2Proof.Machine

def exec (i : Instr) (s : State) : Host.Outcome State Fault Refusal :=
  match i with
  | .transmit slot len id => Sys2Proof.Machine.execTransmit slot len id s
  | .receive slot => Sys2Proof.Machine.execReceive slot s
  | .loadTx slot payload => Sys2Proof.Machine.execLoadTx slot payload s
  | .reqSend slot => Sys2Proof.Machine.execReqSend slot s
  | .readRx slot => Sys2Proof.Machine.execReadRx slot s
  | .readReg addr => Sys2Proof.Machine.execReadReg addr s
  | .writeReg addr value => Sys2Proof.Machine.execWriteReg addr value s
  | .modifyReg addr mask value => Sys2Proof.Machine.execModifyReg addr mask value s

end Sys2Proof.Machine
end

