-- ==== Sys2Proof/Machine/Sequencer.lean ====
section
/-! DEFINITION. The sequencer's own turns (41_sequencer.md rules R181, R183, R184, R186, R187): the issue step and the
consume step of the four transaction phases. -/

namespace Sys2Proof.Machine

/-- The transaction of the current phase (R183, R184, R186, R187, R120), in the four phases that have one. It reads
`CMD_SLOT`, and reading that while it is unwritten faults (R14), which no run reaches. -/
def phaseTransaction (s : State) : Except Fault Transaction :=
  match readWritten .cmdSlot s.cmdSlot with
  | .error e => .error e
  | .ok slot =>
    if s.phase = Phase.txLoad then .ok (loadTxWord slot s.buf)
    else if s.phase = Phase.txRts then .ok (reqSendWord slot)
    else if s.phase = Phase.rxBuf then .ok (readRxWord slot)
    else match rxctrlAddrOf s.cfg slot with
      | some a => .ok (readRegWord a)
      | none => .error .noControlRegister

/-- `issue T` (R181, R13): the transaction goes on the port and into the trace. -/
def issue (t : Transaction) (s : State) : State :=
  { s with port := some t, await := true, trace := s.trace ++ [.issue t] }

/-- The issue step. -/
def issueStep (s : State) : Out :=
  match phaseTransaction s with
  | .ok t => .next (issue t s)
  | .error f => .fault f

/-- The consume step's first line (R181): the response is taken, and recorded before it is looked at. -/
def takeResponse (r : Response) (s : State) : State :=
  { s with rspIn := none, await := false, trace := s.trace ++ [.resp r] }

/-- The success arm of TX_LOAD (R183): the send request is next. -/
def loadAcknowledged (s : State) : State := { s with phase := Phase.txRts }

/-- `STAT <- v` (R187). -/
def storeStat (v : Byte) (s : State) : State := { s with stat := some v }

/-- The success arm of RX_BUF (R186): the 13 bytes become the working image. -/
def storeImage (b : Image) (s : State) : State := { s with buf := b, phase := Phase.rxCtrl }

/-- The success arm of RX_CTRL (R187): the status byte is kept, the frame decoded, the command completed. -/
def receiveDone (v : Byte) (s : State) : State := completeOk (decodeFrame v (storeStat v s))

/-- The consume step (R181), over the state in which the response has been taken: the failure arm, the phase's success
arm, or BAD_RESPONSE. -/
def consumeArm (r : Response) (s : State) : Out :=
  match r with
  | .fail f => completeFail f s
  | .ok =>
    if s.phase = Phase.txLoad then .next (loadAcknowledged s)
    else if s.phase = Phase.txRts then .next (completeOk s)
    else .next (raiseFault FaultCode.badResponse s)
  | .okBytes b =>
    if s.phase = Phase.rxBuf then .next (storeImage b s) else .next (raiseFault FaultCode.badResponse s)
  | .okByte v =>
    if s.phase = Phase.rxCtrl then .next (receiveDone v s) else .next (raiseFault FaultCode.badResponse s)

/-- The consume step. -/
def consumeStep (r : Response) (s : State) : Out := consumeArm r (takeResponse r s)

/-- The block's turn (R181): in IDLE and in FAULTED it has no step (R235), while its transaction is unanswered it has no
step (R34), and having no step is to stay as it is (log 7). -/
def blockStep (s : State) : Out :=
  match corruptRegister s with
  | some f => .fault f
  | none =>
    if s.phase = Phase.idle ∨ s.phase = Phase.faulted then .next s
    else if s.await then
      match s.rspIn with
      | none => .next s
      | some r => consumeStep r s
    else issueStep s

end Sys2Proof.Machine
end

