-- ==== Sys2Proof/Machine/Agents.lean ====
section
/-! DEFINITION. One turn of one agent (00_scope.md rule R4): the caller presents a command, reads, or resets; the block
takes a step; the environment carries out a transaction, answers one, or changes its own state; the surrounding
software issues a transaction of its own. A turn that is not enabled leaves the machine as it is. -/

namespace Sys2Proof.Machine

/-- The caller presents a command (R111, R180): its `DIN` is in place, the word is decoded, and the block takes the
accept step. -/
def presentCommand (cmdw : BitVec 16) (id : LogicalId) (din : List Byte) (s : State) : Out :=
  match decodeCommand cmdw id with
  | .ok i => exec i (provideDin din s)
  | .error _ => acceptIllegal (provideDin din s)

/-- The environment decodes a transaction and carries it out for whoever issued it. -/
def performTransaction (who : Requester) (t : Transaction) (s : State) : Out :=
  match decodeTransaction t with
  | .ok i => exec i (serveFor who s)
  | .error e => .refused (.notATransaction e)

/-- The environment carries out the outstanding transaction of the block (R93). -/
def serveBlock (s : State) : Out :=
  match s.port with
  | none => .next s
  | some t => performTransaction .block t s

/-- The environment carries out an abandoned transaction (R234, R261). -/
def serveOrphan (n : Nat) (s : State) : Out :=
  match s.orphans[n]? with
  | none => .next s
  | some t => performTransaction .nobody t (dropOrphan n s)

/-- The caller reads (R274). -/
def callerRead (r : OutRegister) (s : State) : Out :=
  match readOut r s with
  | .ok v => .next (recordSeen v s)
  | .error f => .fault f

/-- One turn. -/
def takeTurn (e : Turn) (s : State) : Out :=
  match e with
  | .block => blockStep s
  | .command cmdw id din => presentCommand cmdw id din s
  | .serve => serveBlock s
  | .answer r => .next (answerBlock r s)
  | .serveOrphan n => serveOrphan n s
  | .software t => performTransaction .software t s
  | .changeTxb slot b => .next (storeTxb slot b s)
  | .changeRxb slot b => .next (storeRxb slot b s)
  | .changeReg addr value => .next (writeRegister addr value s)
  | .changeTxreq slot v => .next (setTxreq slot v s)
  | .setDin bytes => .next (provideDin bytes s)
  | .setDout bytes => .next (provideDout bytes s)
  | .read r => callerRead r s
  | .reset => .next (resetBlock s)

/-- The next turn of the schedule, and the schedule without it; where nothing is scheduled it is the block's turn. -/
def nextTurn (s : State) : Turn × State :=
  match s.agenda with
  | [] => (.block, s)
  | e :: rest => (e, keepTurns rest s)

/-- One step of the machine. -/
def stepMachine (s : State) : Out := takeTurn (nextTurn s).1 (nextTurn s).2

/-- The turn that presents a table row's word: a 16-bit row to the command port with `ID` zero and eight zero bytes in
`DIN`, a 32-bit row to the environment with a payload of zeros. -/
def tableTurn (nbits w : Nat) : Option Turn :=
  if nbits = 16 then some (.command (BitVec.ofNat 16 w) 0 (List.replicate 8 0))
  else if nbits = 32 then some (.software ⟨BitVec.ofNat 32 w, zeroPayload (BitVec.ofNat 32 w)⟩)
  else none

end Sys2Proof.Machine
end

