-- ==== Sys2Proof/Machine/Step.lean ====
section
/-! DEFINITION. The step of the machine, and placing one instruction where the step takes its next one. -/

namespace Sys2Proof.Machine

/-- One step: the next scheduled turn, or the block's own turn where nothing is scheduled. -/
def step (s : State) : Host.Outcome State Fault Refusal := stepMachine s

/-- The instruction of a table word is the next turn; nothing else changes (log 23). -/
def State.withFetchWord (s : State) (nbits w : Nat) : State :=
  { s with agenda := (tableTurn nbits w).toList ++ s.agenda }

end Sys2Proof.Machine
end

