-- ==== Sys2Proof/Machine/Assembly.lean ====
section
/-! DEFINITION. The assembler of 30_encoding.md rules R122 to R126: the call form of a command, its operand expressions,
assembly and disassembly, and the written form of transactions and responses. -/

namespace Sys2Proof.Machine

/-! Operand expressions and commands as terms. -/

/-- An operand expression (R123). -/
inductive Expr where
  | number (n : Nat)
  | effFlag
  | rtrFlag
  | or (a b : Expr)
  deriving DecidableEq, Repr

/-- A command as it is written (R122). -/
inductive Call where
  | transmit (slot : Nat) (id : Expr) (data : List Nat) (length : Nat)
  | receive (slot : Nat)
  deriving DecidableEq, Repr

/-- What the command port carries: `CMDW`, `ID` and `DIN` (R111). -/
structure Command where
  cmdw : BitVec 16
  id   : LogicalId
  din  : List Byte
  deriving DecidableEq, Repr

/-- The value of an expression (R123). -/
def exprValue : Expr → Nat
  | .number n => n
  | .effFlag => effFlag.toNat
  | .rtrFlag => rtrFlag.toNat
  | .or a b => exprValue a ||| exprValue b

/-- Assembly (R124). An id expression that does not fit in 32 bits is refused (R123). For a RECEIVE R124 gives `CMDW` only and R112 says that `ID` is not read: that `ID` is then
0 and `DIN` empty is the model's choice (DESIGN CHOICE, log 32). R123 says that a data list must not be shorter than
`min(length, 8)`, and that a byte is 0 to 255: that a call that breaks this, or a length range of R122, is refused by the
assembler is the model's choice (DESIGN CHOICE, log 34). -/
def assemble : Call → Option Command
  | .transmit slot id data length =>
    if slot < 3 ∧ exprValue id < 2 ^ 32 ∧ data.all (· < 256) ∧ length < 256 ∧ min length 8 ≤ data.length then
      some ⟨commandWord 0 (BitVec.ofNat 2 slot) (BitVec.ofNat 8 length), BitVec.ofNat 32 (exprValue id),
        data.map (BitVec.ofNat 8)⟩
    else none
  | .receive slot =>
    if slot < 2 then some ⟨commandWord 1 (BitVec.ofNat 2 slot) 0, 0, []⟩ else none

/-- Disassembly (R124): the inverse for every word that a call can be assembled to; any other word is illegal. -/
def disassemble (c : Command) : Option Call :=
  match decodeCommand c.cmdw c.id with
  | .ok (.transmit slot len id) =>
    if isTxSlot slot then some (.transmit slot.toNat (.number id.toNat) (c.din.map (·.toNat)) len.toNat) else none
  | .ok (.receive slot) => if isRxSlot slot then some (.receive slot.toNat) else none
  | _ => none

/-! The written form. -/

/-- A number in hexadecimal with at least `width` digits. -/
def hex (width n : Nat) : String :=
  let digits := (Nat.toDigits 16 n).map Char.toUpper
  "0x" ++ String.ofList (List.replicate (width - digits.length) '0' ++ digits)

/-- A list in brackets, its members set apart by a comma and a space. -/
def bracketed (items : List String) : String := "[" ++ ", ".intercalate items ++ "]"

def renderBytes (bytes : List Byte) : String := bracketed (bytes.map fun b => hex 2 b.toNat)

/-- The text of a command word (R124): the call, or `.illegal 0x<CMDW>`. -/
def renderCommand (c : Command) : String :=
  match disassemble c with
  | some (.transmit slot id _ length) =>
    "transmit(TxB" ++ Nat.repr slot ++ ", id=" ++ hex 1 (exprValue id) ++ ", data=" ++ renderBytes c.din ++
      ", length=" ++ Nat.repr length ++ ")"
  | some (.receive slot) => "receive(RxB" ++ Nat.repr slot ++ ")"
  | none => ".illegal " ++ hex 4 c.cmdw.toNat

/-- The text of a transaction (R126), for a header that is one. -/
def renderTransaction (t : Transaction) : Option String :=
  match decodeTransaction t with
  | .ok (.loadTx slot b) => some ("LOAD_TX(" ++ Nat.repr slot.toNat ++ ", " ++ renderBytes b.toList ++ ")")
  | .ok (.reqSend slot) => some ("REQ_SEND(" ++ Nat.repr slot.toNat ++ ")")
  | .ok (.readRx slot) => some ("READ_RX(" ++ Nat.repr slot.toNat ++ ")")
  | .ok (.readReg a) => some ("READ_REG(" ++ hex 2 a.toNat ++ ")")
  | .ok (.writeReg a v) => some ("WRITE_REG(" ++ hex 2 a.toNat ++ ", " ++ hex 2 v.toNat ++ ")")
  | .ok (.modifyReg a m v) =>
    some ("MODIFY_REG(" ++ hex 2 a.toNat ++ ", " ++ hex 2 m.toNat ++ ", " ++ hex 2 v.toNat ++ ")")
  | _ => none

/-- The text of a response (R126). How a failure value is written is an argument, because its type is OPEN (R8). -/
def renderResponse (showFailure : FailureValue → String) : Response → String
  | .ok => "OK"
  | .okByte b => "OK_BYTE(" ++ hex 2 b.toNat ++ ")"
  | .okBytes b => "OK_BYTES(" ++ renderBytes b.toList ++ ")"
  | .fail f => "FAIL(" ++ showFailure f ++ ")"

/-! Reading the call form (R122). -/

/-- A lexical token: a run of letters, digits and underscores, or one other character. -/
inductive Token where
  | word (cs : List Char)
  | mark (c : Char)
  deriving DecidableEq, Repr

def isWordChar (c : Char) : Bool := c.isAlphanum || c == '_'

/-- The run read so far, if it is not empty, as a token. -/
def closeWord (run : List Char) : List Token := if run.isEmpty then [] else [.word run.reverse]

/-- The tokens of a text; white space only sets words apart. -/
def tokens : List Char → List Char → List Token
  | [], run => closeWord run
  | c :: cs, run =>
    if isWordChar c then tokens cs (c :: run)
    else if c.isWhitespace then closeWord run ++ tokens cs []
    else closeWord run ++ .mark c :: tokens cs []

/-- The value of a digit below the base. -/
def digitValue (base : Nat) (c : Char) : Option Nat :=
  let v := if c.isDigit then c.toNat - 48 else if c.isUpper then c.toNat - 55 else c.toNat - 87
  if (c.isDigit || c.isAlpha) && decide (v < base) then some v else none

/-- A run of digits, after the value read so far. -/
def digitsValue (base : Nat) : List Char → Nat → Option Nat
  | [], acc => some acc
  | c :: cs, acc => (digitValue base c).bind fun v => digitsValue base cs (acc * base + v)

/-- A decimal or hexadecimal number (R122). -/
def numberOf : List Char → Option Nat
  | '0' :: 'x' :: c :: cs => digitsValue 16 (c :: cs) 0
  | c :: cs => digitsValue 10 (c :: cs) 0
  | [] => none

/-- One operand of an expression (R123). -/
def atomOf (t : Token) : Option Expr :=
  match t with
  | .mark _ => none
  | .word cs =>
    if cs = "EFF_FLAG".toList then some .effFlag
    else if cs = "RTR_FLAG".toList then some .rtrFlag
    else (numberOf cs).map Expr.number

/-- An expression: operands joined by `|` (R123). -/
def parseExpr : List Token → Option (Expr × List Token)
  | [] => none
  | a :: .mark '|' :: rest => (atomOf a).bind fun e => (parseExpr rest).map fun p => (.or e p.1, p.2)
  | a :: rest => (atomOf a).map fun e => (e, rest)

def parseNumber : List Token → Option (Nat × List Token)
  | .word cs :: rest => (numberOf cs).map fun n => (n, rest)
  | _ => none

/-- The rest of a bracketed list after one member (R122). -/
def parseMembers : List Token → Option (List Nat × List Token)
  | .word cs :: .mark ']' :: rest => (numberOf cs).map fun n => ([n], rest)
  | .word cs :: .mark ',' :: rest =>
    (numberOf cs).bind fun n => (parseMembers rest).map fun p => (n :: p.1, p.2)
  | _ => none

def parseList : List Token → Option (List Nat × List Token)
  | .mark '[' :: .mark ']' :: rest => some ([], rest)
  | .mark '[' :: rest => parseMembers rest
  | _ => none

/-- A keyword operand's `name=` may be left out (R122). -/
def skipKeyword (name : String) : List Token → List Token
  | .word cs :: .mark '=' :: rest => if cs = name.toList then rest else .word cs :: .mark '=' :: rest
  | ts => ts

def parseMark (c : Char) : List Token → Option (List Token)
  | .mark d :: rest => if d = c then some rest else none
  | _ => none

/-- `TxB0` to `TxB2`, or `RxB0` and `RxB1` (R122). -/
def slotOf (first : Char) (count : Nat) : List Char → Option Nat
  | [a, 'x', 'B', d] =>
    if a = first then (digitValue 10 d).bind fun n => if n < count then some n else none else none
  | _ => none

/-- The operands of a transmit call, after its slot. -/
def parseTransmit (slot : Nat) (ts : List Token) : Option Call :=
  (parseMark ',' ts).bind fun ts =>
  (parseExpr (skipKeyword "id" ts)).bind fun (id, ts) =>
  (parseMark ',' ts).bind fun ts =>
  (parseList (skipKeyword "data" ts)).bind fun (bytes, ts) =>
  (parseMark ',' ts).bind fun ts =>
  (parseNumber (skipKeyword "length" ts)).bind fun (len, ts) =>
  if ts = [.mark ')'] then some (.transmit slot id bytes len) else none

/-- One call (R122). -/
def parseCall : List Token → Option Call
  | .word name :: .mark '(' :: .word slot :: rest =>
    if name = "transmit".toList then (slotOf 'T' 3 slot).bind fun s => parseTransmit s rest
    else if name = "receive".toList then
      (slotOf 'R' 2 slot).bind fun s => if rest = [.mark ')'] then some (.receive s) else none
    else none
  | _ => none

/-- The assembler, from text to the command port (R122 to R124). -/
def assembleText (text : String) : Option Command := (parseCall (tokens text.toList [])).bind assemble

end Sys2Proof.Machine
end

