-- ==== Sys2Proof/Machine/Macro.lean ====
section
/-! DEFINITION. MACRO_STEP (41_sequencer.md rule R190): a command seen whole, as a function of the environment's answers
of the right shape; the schedules in which nothing interleaves; and the trace such a command leaves. -/

namespace Sys2Proof.Machine

/-- An answer of the right shape: a failure, or the success data (R119). -/
abbrev Answer (α : Type) := Except FailureValue α

def Answer.toOk : Answer Unit → Response
  | .ok _ => .ok
  | .error f => .fail f

def Answer.toBytes : Answer Image → Response
  | .ok b => .okBytes b
  | .error f => .fail f

def Answer.toByte : Answer Byte → Response
  | .ok v => .okByte v
  | .error f => .fail f

/-- `transmit` of R190: OK, or the first failure. -/
def macroTransmit (r1 r2 : Answer Unit) : Answer Unit :=
  match r1 with
  | .error f => .error f
  | .ok _ => r2

/-- `receive` of R190: the id, the length and `DOUT` of the decoded frame, or the first failure. -/
def macroReceive (c : Config) (dout : Payload) (r1 : Answer Image) (r2 : Answer Byte) :
    Answer (LogicalId × Byte × Payload) :=
  match r1 with
  | .error f => .error f
  | .ok b =>
    match r2 with
    | .error f => .error f
    | .ok v => .ok (decodeId c b v, decodeLen b, copyOut (receivedBytes b) 0 dout)

/-- The image a TRANSMIT hands to LOAD_TX: ENCODE_FRAME over the draws of its acceptance (R149, R180). -/
def transmitImage (c : Config) (id : LogicalId) (len : Byte) (din : List Byte) (draws : Nat) : Image :=
  encodeFrame c id len din (drawVector draws 13)

/-- The events of a TRANSMIT that runs to its end (R182, R188). -/
def transmitTrace (slot : BitVec 2) (len : Byte) (b : Image) (r1 r2 : Answer Unit) : List TraceEvent :=
  dinReads len ++ [.issue (loadTxWord slot b), .resp r1.toOk] ++
  match r1 with
  | .error _ => [.done Result.busFail]
  | .ok _ =>
    [.issue (reqSendWord slot), .resp r2.toOk,
     .done (match r2 with | .ok _ => Result.ok | .error _ => Result.busFail)]

/-- The events of a RECEIVE that runs to its end (R185, R188), the control-status register being at `addr`. -/
def receiveTrace (slot : BitVec 2) (addr : Byte) (r1 : Answer Image) (r2 : Answer Byte) : List TraceEvent :=
  [.issue (readRxWord slot), .resp r1.toBytes] ++
  match r1 with
  | .error _ => [.done Result.busFail]
  | .ok b =>
    [.issue (readRegWord addr), .resp r2.toByte] ++
    match r2 with
    | .error _ => [.done Result.busFail]
    | .ok _ => doutWrites (receivedBytes b) 0 ++ [.done Result.ok]

/-- A command with its two transactions answered at once by the given responses: accept, issue, response, consume,
issue, response, consume (R181). -/
def answeredSchedule (cmdw : BitVec 16) (id : LogicalId) (din : List Byte) (r1 r2 : Response) : List Turn :=
  [.command cmdw id din, .block, .answer r1, .block, .block, .answer r2, .block]

/-- A command with its two transactions carried out at once by the reference environment (R93). -/
def servedSchedule (cmdw : BitVec 16) (id : LogicalId) (din : List Byte) : List Turn :=
  [.command cmdw id din, .block, .serve, .block, .block, .serve, .block]

end Sys2Proof.Machine
end

