-- ==== Sys2Proof/Safety.lean ====
section
/-! DEFINITION. What counts as a good state, a good end and a good trace of this machine, in the terms the claims use
(70_reset_and_hazards.md rule R276, 42_register_io.md rule R221, 60_exceptions.md rules R230 to R237). -/

namespace Sys2Proof.Machine

/-- The block is in IDLE and can look at a command (R180); the fault register holds a code that is written (R232). -/
abbrev ready (s : State) : Prop := s.phase = Phase.idle ∧ s.faultReg.toNat ≤ 5

/-- `PHASE` and `FAULT` hold codes that are written (R33, R232): the block does not fault on finding them. -/
abbrev codesWritten (s : State) : Prop := s.phase ≠ 5 ∧ s.phase ≠ 6 ∧ s.faultReg.toNat ≤ 5

/-- No failure is scheduled for the next transaction (R93). -/
abbrev noFailure (s : State) : Prop := s.env.fails.lookup s.env.taken = none

/-- The six transactions of the downstream port. -/
def isTransaction : Instr → Bool
  | .transmit .. => false
  | .receive .. => false
  | _ => true

/-- The block's part of a good end (R276): IDLE, nothing outstanding, no response, no fault. -/
abbrev atRest (s : State) : Prop :=
  s.phase = Phase.idle ∧ s.await = false ∧ s.rspIn = none ∧ s.faultReg = FaultCode.none

/-- The caller presents a command. -/
def presentsCommand : Turn → Bool
  | .command .. => true
  | _ => false

/-- The caller presents no further command. -/
abbrev noFurtherCommand (s : State) : Prop := s.agenda.any presentsCommand = false

/-- A run of the block ends well here (R276, D43): the block is at rest, and the caller presents no further command. -/
abbrev endedWell (s : State) : Prop := atRest s ∧ noFurtherCommand s

/-- Stuck on the environment, not ended (R276, R34). -/
abbrev stuckOnEnvironment (s : State) : Prop := s.await = true ∧ s.rspIn = none

/-- The block is stuck until reset (R235). -/
abbrev isFaulted (s : State) : Prop := s.phase = Phase.faulted

/-- A command is in progress: one of the four transaction phases. -/
abbrev inTransmit (s : State) : Prop := s.phase = Phase.txLoad ∨ s.phase = Phase.txRts
abbrev inReceive (s : State) : Prop := s.phase = Phase.rxBuf ∨ s.phase = Phase.rxCtrl
abbrev inProgress (s : State) : Prop := inTransmit s ∨ inReceive s

/-- The four kinds of transaction the block issues (R121, R221), with the slot or address it may have. -/
def issuable (c : Config) : Instr → Prop
  | .loadTx slot _ => isTxSlot slot
  | .reqSend slot => isTxSlot slot
  | .readRx slot => isRxSlot slot
  | .readReg a => ∃ slot, rxctrlAddrOf c slot = some a
  | _ => False

/-- A transaction that the block may have issued. -/
def fromBlock (c : Config) (t : Transaction) : Prop := ∃ i, decodeTransaction t = .ok i ∧ issuable c i

/-- The registers agree with one another and with the phase. -/
structure RegistersAgree (s : State) : Prop where
  /-- 5 and 6 are never written (R33). -/
  phase_written : s.phase ≠ 5 ∧ s.phase ≠ 6
  /-- 6 and 7 are never written (R232). -/
  fault_written : s.faultReg.toNat ≤ 5
  /-- The fault register says why the block is FAULTED, and only then (R234, R235). -/
  fault_iff_faulted : s.phase = Phase.faulted ↔ s.faultReg ≠ FaultCode.none
  /-- A transaction is awaited only in a transaction phase (R181). -/
  await_in_progress : s.await = true → inProgress s
  /-- `RSP_IN` is written only while `AWAIT` is 1 (R34). -/
  response_awaited : s.rspIn ≠ none → s.await = true
  /-- The port carries the phase's transaction exactly while it is unanswered (R181, R210). -/
  port_is_phase : s.port = if s.await = true ∧ s.rspIn = none then (phaseTransaction s).toOption else none
  /-- The latches of a TRANSMIT in progress (R35, R180). -/
  transmit_latched : inTransmit s → s.cmdOp = some CmdOp.transmit ∧
    (∃ slot, s.cmdSlot = some slot ∧ isTxSlot slot) ∧ s.idIn.isSome ∧ s.lenIn.isSome
  /-- The latches of a RECEIVE in progress (R35, R180). -/
  receive_latched : inReceive s → s.cmdOp = some CmdOp.receive ∧
    (∃ slot, s.cmdSlot = some slot ∧ isRxSlot slot) ∧ s.idIn = none ∧ s.lenIn = none
  /-- While a command is in progress no response register is written (R40). -/
  outputs_pending : inProgress s → s.result = none ∧ s.failval = none ∧ s.idOut = none ∧ s.lenOut = none
  /-- Between commands `ID_IN`, `LEN_IN` and `STAT` are unwritten (R35, R37, R188). -/
  idle_unwritten : s.phase = Phase.idle → s.idIn = none ∧ s.lenIn = none ∧ s.stat = none
  /-- `FAILVAL` is written exactly by a BUS_FAIL, `ID_OUT` and `LEN_OUT` only by an OK (R40, R230). -/
  outputs_match : (s.failval.isSome ↔ s.result = some Result.busFail) ∧
    (s.idOut.isSome → s.result = some Result.ok) ∧ (s.idOut.isSome ↔ s.lenOut.isSome)

/-- Every transaction the environment still has from the block is one the block issues (R221). -/
abbrev orphansFromBlock (s : State) : Prop := ∀ t ∈ s.orphans, fromBlock s.cfg t

/-- Where a trace stands in the protocol of R221: between commands or reading `DIN`, or after an event of one. -/
inductive TracePos where
  | reading (n : Nat)
  | loadSent (slot : BitVec 2)
  | loaded (slot : BitVec 2)
  | requestSent (slot : BitVec 2)
  | bufferSent (slot : BitVec 2)
  | bufferRead (slot : BitVec 2)
  | controlSent (slot : BitVec 2)
  | delivering (n : Nat)
  | closing (result : BitVec 1)
  | broken
  deriving DecidableEq, Repr

/-- One event of the protocol (R181 to R188, R221); nothing follows a response of a wrong shape. -/
def followEvent (c : Config) (p : TracePos) (e : TraceEvent) : Option TracePos :=
  match p, e with
  | .reading n, .dinRead i => if i = n ∧ n < 8 then some (.reading (n + 1)) else none
  | .reading n, .issue t =>
    match decodeTransaction t with
    | .ok (.loadTx slot _) => if isTxSlot slot then some (.loadSent slot) else none
    | .ok (.readRx slot) => if n = 0 ∧ isRxSlot slot then some (.bufferSent slot) else none
    | _ => none
  | .loadSent slot, .resp r =>
    match r with
    | .ok => some (.loaded slot)
    | .fail _ => some (.closing Result.busFail)
    | _ => some .broken
  | .loaded slot, .issue t => if t = reqSendWord slot then some (.requestSent slot) else none
  | .requestSent _, .resp r =>
    match r with
    | .ok => some (.closing Result.ok)
    | .fail _ => some (.closing Result.busFail)
    | _ => some .broken
  | .bufferSent slot, .resp r =>
    match r with
    | .okBytes _ => some (.bufferRead slot)
    | .fail _ => some (.closing Result.busFail)
    | _ => some .broken
  | .bufferRead slot, .issue t =>
    match rxctrlAddrOf c slot with
    | some a => if t = readRegWord a then some (.controlSent slot) else none
    | none => none
  | .controlSent _, .resp r =>
    match r with
    | .okByte _ => some (.delivering 0)
    | .fail _ => some (.closing Result.busFail)
    | _ => some .broken
  | .delivering n, .doutWrite i _ => if i = n ∧ n < 8 then some (.delivering (n + 1)) else none
  | .delivering _, .done r => if r = Result.ok then some (.reading 0) else none
  | .closing res, .done r => if r = res then some (.reading 0) else none
  | _, _ => none

/-- A whole trace, from an empty one on. -/
def followTrace (c : Config) (trace : List TraceEvent) : Option TracePos :=
  trace.foldl (fun p e => p.bind fun q => followEvent c q e) (some (.reading 0))

/-- The trace position that fits the registers; in FAULTED the trace stops anywhere (R234). -/
def positionFits (s : State) (p : TracePos) : Prop :=
  (s.phase = Phase.idle → p = .reading 0) ∧
  (s.phase = Phase.txLoad → if s.await = true then ∃ slot, s.cmdSlot = some slot ∧ p = .loadSent slot
    else ∃ n, p = .reading n) ∧
  (s.phase = Phase.txRts → ∃ slot, s.cmdSlot = some slot ∧
    p = if s.await = true then .requestSent slot else .loaded slot) ∧
  (s.phase = Phase.rxBuf → if s.await = true then ∃ slot, s.cmdSlot = some slot ∧ p = .bufferSent slot
    else p = .reading 0) ∧
  (s.phase = Phase.rxCtrl → ∃ slot, s.cmdSlot = some slot ∧
    p = if s.await = true then .controlSent slot else .bufferRead slot)

/-- The trace follows the protocol up to where the registers say the block is. -/
def TraceInProtocol (s : State) : Prop := ∃ p, followTrace s.cfg s.trace = some p ∧ positionFits s p

/-- A good state of the machine. -/
structure GoodState (s : State) : Prop where
  registers : RegistersAgree s
  orphans   : orphansFromBlock s
  trace     : TraceInProtocol s
  memory    : Memory.wf s.env.reg = true

end Sys2Proof.Machine
end

