-- ==== Sys2Proof/Certificates/Slice0/Obligations.lean ====
section
/-! DEFINITION. The statements for the provers, each from a numbered rule of spec/. -/

open Sys2Proof Sys2Proof.Machine

/-! ## Decoding, encoding and the step -/

/-- A presented command word that decodes is run as the instruction it decodes to; around `exec` the step only takes the
turn off the schedule and puts the caller's bytes in `DIN`. -/
def Obligations.StepRunsDecodedCommand : Prop :=
  ∀ (s : State) (rest : List Turn) (cmdw : BitVec 16) (id : LogicalId) (din : List Byte) (i : Instr),
    s.agenda = .command cmdw id din :: rest → decodeCommand cmdw id = .ok i →
    step s = exec i { s with agenda := rest, din := din }

/-- A transaction that decodes is run as the instruction it decodes to, for the block's outstanding transaction, the
surrounding software's, and one the block has abandoned; around `exec` the step takes the turn off the schedule, notes
whose transaction it is, and takes an abandoned one off its list; these two are the model's choice (log 13, log 14). -/
def Obligations.StepRunsDecodedTransaction : Prop :=
  ∀ (s : State) (rest : List Turn) (t : Transaction) (i : Instr), decodeTransaction t = .ok i →
    (s.agenda = .serve :: rest → s.port = some t →
      step s = exec i { s with agenda := rest, requester := .block }) ∧
    (s.agenda = .software t :: rest → step s = exec i { s with agenda := rest, requester := .software }) ∧
    (∀ n, s.agenda = .serveOrphan n :: rest → s.orphans[n]? = some t →
      step s = exec i { s with agenda := rest, orphans := s.orphans.eraseIdx n, requester := .nobody })

/-- The encodings that rule R127 lists decode to what they stand for, and the words it lists as illegal do not. -/
def Obligations.WorkedEncodingsDecode : Prop :=
  decodeCommand 0x0002 0x00000123 = .ok (.transmit 0 2 0x123) ∧
  decodeCommand 0x0000 0x3FFFFFFF = .ok (.transmit 0 0 0x3FFFFFFF) ∧
  decodeCommand 0x1000 0x400007FF = .ok (.transmit 1 0 0x400007FF) ∧
  decodeCommand 0x200C 0x00000100 = .ok (.transmit 2 12 0x100) ∧
  decodeCommand 0x4000 0 = .ok (.receive 0) ∧
  decodeCommand 0x5000 0 = .ok (.receive 1) ∧
  decodeCommand 0x8000 0 = .error .illegalCommand ∧
  decodeCommand 0x0100 0 = .error .illegalCommand ∧
  decodeCommand 0x4001 0 = .error .illegalCommand ∧
  decodeTransaction ⟨0x10000000, List.replicate 13 0x5A⟩ = .ok (.loadTx 2 (Vector.replicate 13 0x5A)) ∧
  decodeTransaction ⟨0x28000000, []⟩ = .ok (.reqSend 1) ∧
  decodeTransaction ⟨0x48000000, []⟩ = .ok (.readRx 1) ∧
  decodeTransaction ⟨0x60700000, []⟩ = .ok (.readReg 0x70) ∧
  decodeTransaction ⟨0x800F0080, []⟩ = .ok (.writeReg 0x0F 0x80) ∧
  decodeTransaction ⟨0xA00FE000, []⟩ = .ok (.modifyReg 0x0F 0xE0 0x00)

/-- Decoding an encoded instruction gives it back, for every instruction that names a buffer, with every operand at
every value. -/
def Obligations.DecodeEncodeRoundTrip : Prop :=
  ∀ i : Instr, i.wellFormed = true → decode (encode i) = .ok i

/-- Each word has one meaning: a transaction that decodes is the encoding of what it decodes to, and a command word that
decodes is the encoding's, with its `ID` operand for a TRANSMIT. -/
def Obligations.EncodeDecodeOneWord : Prop :=
  (∀ (t : Transaction) (i : Instr), decodeTransaction t = .ok i → encode i = .transaction t) ∧
  (∀ (cmdw : BitVec 16) (id : LogicalId) (i : Instr), decodeCommand cmdw id = .ok i →
    ∃ id', encode i = .command cmdw id' ∧ (cmdw.extractLsb' 14 2 = 0 → id' = id))

/-! ## Acceptance -/

/-- The order of the acceptance checks (R236, R180): FAULTED takes no step, then REENTRY, ILLEGAL_COMMAND, INVALID_SLOT,
DATA_UNDERRUN, and otherwise the command is accepted. That taking no step in FAULTED is a step that uses up the turn, with
`DIN` as the caller provided it, is the model's choice (log 19, log 7). -/
def Obligations.AcceptanceChecksInOrder : Prop :=
  ∀ (s : State) (rest : List Turn) (cmdw : BitVec 16) (id : LogicalId) (din : List Byte),
    codesWritten s → s.agenda = .command cmdw id din :: rest →
    let s1 : State := { s with agenda := rest, din := din }
    let op := cmdw.extractLsb' 14 2
    let slot := cmdw.extractLsb' 12 2
    let rsv := cmdw.extractLsb' 8 4
    let len := cmdw.extractLsb' 0 8
    step s =
      if s.phase = 7 then .next s1
      else if s.phase ≠ 0 then .next (raiseFault 4 s1)
      else if 2 ≤ op.toNat ∨ rsv ≠ 0 ∨ (op = 1 ∧ len ≠ 0) then .next (raiseFault 1 s1)
      else if (op = 0 ∧ 2 < slot.toNat) ∨ (op = 1 ∧ 1 < slot.toNat) then .next (raiseFault 2 s1)
      else if op = 0 ∧ din.length < min len.toNat 8 then .next (raiseFault 3 s1)
      else if op = 0 then .next (acceptTransmit slot len id s1)
      else .next (acceptReceive slot s1)

/-- Raising a fault (R234) writes `FAULT`, `PHASE`, `AWAIT` and `RSP_IN` and no other register; an outstanding
transaction is no longer the block's and may still take effect. -/
def Obligations.FaultEntryWritesOnlyThese : Prop :=
  ∀ (code : BitVec 3) (s : State),
    raiseFault code s =
      { s with
        faultReg := code, phase := 7, await := false, rspIn := none
        port := none, orphans := s.orphans ++ s.port.toList }

/-- In FAULTED nothing but reset changes a register of the block: no command is accepted, no transaction issued, no
response consumed (R235). Of `RSP_IN` this is said where the registers agree, so that none is awaited. -/
def Obligations.FaultedIsSticky : Prop :=
  ∀ s t : State, s.phase = 7 → (nextTurn s).1 ≠ .reset → step s = .next t →
    t.phase = 7 ∧ t.faultReg = s.faultReg ∧ t.trace = s.trace ∧ t.cmdOp = s.cmdOp ∧ t.cmdSlot = s.cmdSlot ∧
    t.idIn = s.idIn ∧ t.lenIn = s.lenIn ∧ t.buf = s.buf ∧ t.stat = s.stat ∧ t.result = s.result ∧
    t.failval = s.failval ∧ t.idOut = s.idOut ∧ t.lenOut = s.lenOut ∧ t.await = s.await ∧
    (RegistersAgree s → t.rspIn = s.rspIn)

/-- `FAULT` changes only by reset, which clears it, and by entering FAULTED, with a code of 1 to 5 (R38, R232, R234). -/
def Obligations.FaultRegisterWriters : Prop :=
  ∀ s t : State, step s = .next t → t.faultReg ≠ s.faultReg →
    ((nextTurn s).1 = .reset ∧ t.faultReg = 0 ∧ t.phase = 0) ∨
    (s.phase ≠ 7 ∧ t.phase = 7 ∧ 1 ≤ t.faultReg.toNat ∧ t.faultReg.toNat ≤ 5)

/-- TRANSMIT in IDLE with a slot 0 to 2 and enough data bytes is accepted (R180, R182): the whole next state. -/
def Obligations.TransmitIsAccepted : Prop :=
  ∀ (s : State) (slot : BitVec 2) (len : Byte) (id : LogicalId),
    ready s → slot.toNat ≤ 2 → min len.toNat 8 ≤ s.din.length →
    exec (.transmit slot len id) s = .next
      { s with
        phase := 1, await := false, rspIn := none
        cmdOp := some 0, cmdSlot := some slot, idIn := some id, lenIn := some len
        buf := encodeFrame s.cfg id len s.din (drawVector s.draws 13)
        stat := none, result := none, failval := none, idOut := none, lenOut := none
        trace := s.trace ++ (List.range (min len.toNat 8)).map TraceEvent.dinRead
        draws := s.draws + 13 }

/-- RECEIVE in IDLE with slot 0 or 1 is accepted (R180, R185): the whole next state. -/
def Obligations.ReceiveIsAccepted : Prop :=
  ∀ (s : State) (slot : BitVec 2), ready s → slot.toNat ≤ 1 →
    exec (.receive slot) s = .next
      { s with
        phase := 3, await := false, rspIn := none
        cmdOp := some 1, cmdSlot := some slot, idIn := none, lenIn := none
        buf := drawVector s.draws 13
        stat := none, result := none, failval := none, idOut := none, lenOut := none
        draws := s.draws + 13 }

/-- The frame of both commands: the configuration, the caller's spaces, all of the controller, and the schedule are as
before, and a trace only grows. -/
def Obligations.CommandFrame : Prop :=
  ∀ (s t : State) (i : Instr), isTransaction i = false → exec i s = .next t →
    t.cfg = s.cfg ∧ t.din = s.din ∧ t.dout = s.dout ∧ t.seen = s.seen ∧ t.env = s.env ∧
    t.requester = s.requester ∧ t.softwareRsp = s.softwareRsp ∧ t.agenda = s.agenda ∧
    s.trace <+: t.trace ∧ s.orphans <+: t.orphans

/-- No command depends on an earlier one (R192): two blocks in IDLE with the same configuration, `DIN` and draws accept
a command into the same registers and record the same events, whatever either did before. A TRANSMIT needs the bytes it
reads, a RECEIVE none. -/
def Obligations.AcceptanceKeepsNothing : Prop :=
  ∀ (s1 s2 : State) (i : Instr), isTransaction i = false → i.wellFormed = true → ready s1 → ready s2 →
    s1.cfg = s2.cfg → s1.din = s2.din → s1.draws = s2.draws →
    (match i with | .transmit _ len _ => min len.toNat 8 ≤ s1.din.length | _ => True) →
    ∃ t1 t2 events, exec i s1 = .next t1 ∧ exec i s2 = .next t2 ∧
      t1.trace = s1.trace ++ events ∧ t2.trace = s2.trace ++ events ∧
      t1.phase = t2.phase ∧ t1.await = t2.await ∧ t1.rspIn = t2.rspIn ∧ t1.cmdOp = t2.cmdOp ∧
      t1.cmdSlot = t2.cmdSlot ∧ t1.idIn = t2.idIn ∧ t1.lenIn = t2.lenIn ∧ t1.buf = t2.buf ∧ t1.stat = t2.stat ∧
      t1.result = t2.result ∧ t1.failval = t2.failval ∧ t1.idOut = t2.idOut ∧ t1.lenOut = t2.lenOut ∧
      t1.draws = t2.draws

/-! ## The transactions -/

/-- LOAD_TX that does not fail stores the 13 bytes in the transmit buffer of its slot and answers OK (R211). -/
def Obligations.LoadTxStoresImage : Prop :=
  ∀ (s : State) (slot : BitVec 2) (b : Image) (h : slot.toNat < 3), noFailure s →
    exec (.loadTx slot b) s = .next (respond .ok
      { s with env := { s.env with txb := s.env.txb.set slot.toNat b, taken := s.env.taken + 1 } })

/-- REQ_SEND that does not fail sets the request of its slot and answers OK (R212, R93). -/
def Obligations.ReqSendSetsRequest : Prop :=
  ∀ (s : State) (slot : BitVec 2) (h : slot.toNat < 3), noFailure s →
    exec (.reqSend slot) s = .next (respond .ok
      { s with env := { s.env with txreq := s.env.txreq.set slot.toNat true, taken := s.env.taken + 1 } })

/-- READ_RX that does not fail answers the 13 bytes of its slot's receive buffer (R213, R93). -/
def Obligations.ReadRxAnswersBuffer : Prop :=
  ∀ (s : State) (slot : BitVec 2) (h : slot.toNat < 2), noFailure s →
    exec (.readRx slot) s = .next (respond (.okBytes s.env.rxb[slot.toNat])
      { s with env := { s.env with taken := s.env.taken + 1 } })

/-- READ_REG that does not fail answers the byte of the register (R214, R93). A register whose value nothing has fixed
answers some value and has it from then on, every other one staying as it is: that is the model's choice (log 10). -/
def Obligations.ReadRegAnswersRegister : Prop :=
  ∀ (s : State) (a : Byte), noFailure s →
    (∀ v, readCell s.env.reg a.toNat = some v →
      exec (.readReg a) s = .next (respond (.okByte v) { s with env := { s.env with taken := s.env.taken + 1 } })) ∧
    (∃ v t, exec (.readReg a) s = .next (respond (.okByte v) t) ∧ readCell t.env.reg a.toNat = some v ∧
      ∀ b, b ≠ a.toNat → readCell t.env.reg b = readCell s.env.reg b)

/-- WRITE_REG that does not fail leaves the value in the register, every other register as it was, and answers OK
(R215). -/
def Obligations.WriteRegStoresValue : Prop :=
  ∀ (s : State) (a v : Byte), noFailure s →
    ∃ m, exec (.writeReg a v) s = .next (respond .ok
        { s with env := { s.env with reg := m, taken := s.env.taken + 1 } }) ∧
      readCell m a.toNat = some v ∧ ∀ b, b ≠ a.toNat → readCell m b = readCell s.env.reg b

/-- MODIFY_REG that does not fail makes the register `(old & ~m) | (v & m)`, bit by bit: where the mask is 1 the value's
bit, elsewhere the old bit; every other register as it was; OK (R216). Where no old value is fixed the kept bits are
open, and the masked ones are the value's (log 10). -/
def Obligations.ModifyRegMasksValue : Prop :=
  ∀ (s : State) (a m v : Byte), noFailure s →
    ∃ t w, exec (.modifyReg a m v) s = .next (respond .ok t) ∧ readCell t.env.reg a.toNat = some w ∧
      (∀ b, b ≠ a.toNat → readCell t.env.reg b = readCell s.env.reg b) ∧
      (∀ k, m.getLsbD k = true → w.getLsbD k = v.getLsbD k) ∧
      (∀ old, readCell s.env.reg a.toNat = some old →
        (∀ k, m.getLsbD k = false → w.getLsbD k = old.getLsbD k) ∧
        t = { s with env := { s.env with reg := writeCell s.env.reg a.toNat w, taken := s.env.taken + 1 } })

/-- A transaction that names a buffer and whose failure is scheduled answers that failure, unchanged, and in the
reference environment changes nothing (R217, R93): a statement about that environment (log 12). -/
def Obligations.ScheduledFailureIsAnswered : Prop :=
  ∀ (s : State) (i : Instr) (f : FailureValue), isTransaction i = true → i.wellFormed = true →
    s.env.fails.lookup s.env.taken = some f →
    exec i s = .next (respond (.fail f) { s with env := { s.env with taken := s.env.taken + 1 } })

/-- Where a response goes (R34, R181, R210): into `RSP_IN` where the block awaits it and none is there yet, and the
transaction is outstanding no more; nowhere where the block does not await it; to the software for its own; nowhere for
an abandoned one. -/
def Obligations.ResponseGoesToRequester : Prop :=
  ∀ (s : State) (r : Response),
    (s.requester = .block → s.await = true → s.rspIn = none →
      respond r s = { s with rspIn := some r, port := none }) ∧
    (s.requester = .block → s.await = false ∨ s.rspIn ≠ none → respond r s = s) ∧
    (s.requester = .software → respond r s = { s with softwareRsp := some r }) ∧
    (s.requester = .nobody → respond r s = s)

/-- The frame of the six transactions in the reference environment of R93: that its spaces do not alias, that a failed
transaction changes nothing, and that a register nothing has fixed may be fixed by a reading, are the choices of log 11,
log 12 and log 10, and say nothing of a controller (R70, R84, R217). Of the block they touch `RSP_IN` and the port only, and of the caller nothing; a
transaction other than LOAD_TX leaves every transmit buffer, one other than REQ_SEND every request, none touches a
receive buffer, and only the three register transactions touch a register, that of their address. -/
def Obligations.TransactionFrame : Prop :=
  ∀ (s t : State) (i : Instr), isTransaction i = true → exec i s = .next t →
    (t.cfg = s.cfg ∧ t.phase = s.phase ∧ t.await = s.await ∧ t.cmdOp = s.cmdOp ∧ t.cmdSlot = s.cmdSlot ∧
      t.idIn = s.idIn ∧ t.lenIn = s.lenIn ∧ t.buf = s.buf ∧ t.stat = s.stat ∧ t.result = s.result ∧
      t.failval = s.failval ∧ t.idOut = s.idOut ∧ t.lenOut = s.lenOut ∧ t.faultReg = s.faultReg ∧
      t.trace = s.trace ∧ t.din = s.din ∧ t.dout = s.dout ∧ t.seen = s.seen ∧ t.orphans = s.orphans ∧
      t.agenda = s.agenda ∧ t.requester = s.requester) ∧
    t.env.rxb = s.env.rxb ∧ t.env.fails = s.env.fails ∧ t.env.taken = s.env.taken + 1 ∧
    (match i with
      | .loadTx slot _ => ∀ k : Fin 3, k.val ≠ slot.toNat → t.env.txb[k] = s.env.txb[k]
      | _ => t.env.txb = s.env.txb) ∧
    (match i with
      | .reqSend slot => ∀ k : Fin 3, k.val ≠ slot.toNat → t.env.txreq[k] = s.env.txreq[k]
      | _ => t.env.txreq = s.env.txreq) ∧
    (match i with
      | .readReg a => ∀ b, b ≠ a.toNat → readCell t.env.reg b = readCell s.env.reg b
      | .writeReg a _ => ∀ b, b ≠ a.toNat → readCell t.env.reg b = readCell s.env.reg b
      | .modifyReg a _ _ => ∀ b, b ≠ a.toNat → readCell t.env.reg b = readCell s.env.reg b
      | _ => t.env.reg = s.env.reg)

/-- A transaction whose slot names no buffer is refused by name, in every state: LOAD_TX and REQ_SEND with slot 3,
READ_RX with slots 2 and 3. -/
def Obligations.NoSuchBufferIsRefused : Prop :=
  ∀ (s : State) (slot : BitVec 2) (b : Image),
    (3 ≤ slot.toNat → exec (.loadTx slot b) s = .refused .noSuchBuffer ∧
      exec (.reqSend slot) s = .refused .noSuchBuffer) ∧
    (2 ≤ slot.toNat → exec (.readRx slot) s = .refused .noSuchBuffer)

/-! ## The sequencer's own steps -/

/-- The issue step of each phase (R181, R183, R184, R186, R187): the phase's transaction, in the encoding of R118, goes
on the port and into the trace, and `AWAIT` becomes 1. -/
def Obligations.IssueStepOfEachPhase : Prop :=
  ∀ (s : State) (slot : BitVec 2), codesWritten s → (nextTurn s).1 = .block → s.await = false →
    s.cmdSlot = some slot →
    let issued (t : Transaction) : State :=
      { (nextTurn s).2 with port := some t, await := true, trace := s.trace ++ [.issue t] }
    (s.phase = 1 → step s = .next (issued ⟨(0b000 : BitVec 3) ++ slot ++ (0 : BitVec 27), s.buf.toList⟩)) ∧
    (s.phase = 2 → step s = .next (issued ⟨(0b001 : BitVec 3) ++ slot ++ (0 : BitVec 27), []⟩)) ∧
    (s.phase = 3 → step s = .next (issued ⟨(0b010 : BitVec 3) ++ slot ++ (0 : BitVec 27), []⟩)) ∧
    (s.phase = 4 → ∀ h : slot.toNat < 2, step s = .next (issued
      ⟨(0b01100000 : BitVec 8) ++ s.cfg.rxctrlAddr[slot.toNat] ++ (0 : BitVec 16), []⟩))

/-- The success arm of each phase's consume step (R183, R184, R186, R187, R188): the whole next state. -/
def Obligations.SuccessArmOfEachPhase : Prop :=
  ∀ s : State, codesWritten s → (nextTurn s).1 = .block → s.await = true →
    let s1 : State := { (nextTurn s).2 with rspIn := none, await := false }
    (s.phase = 1 → s.rspIn = some .ok →
      step s = .next { s1 with phase := 2, trace := s.trace ++ [.resp .ok] }) ∧
    (s.phase = 2 → s.rspIn = some .ok →
      step s = .next
        { s1 with
          phase := 0, result := some 0, idIn := none, lenIn := none, stat := none
          trace := s.trace ++ [.resp .ok, .done 0] }) ∧
    (∀ b, s.phase = 3 → s.rspIn = some (.okBytes b) →
      step s = .next { s1 with phase := 4, buf := b, trace := s.trace ++ [.resp (.okBytes b)] }) ∧
    (∀ v, s.phase = 4 → s.rspIn = some (.okByte v) →
      step s = .next
        { s1 with
          phase := 0, result := some 0, idIn := none, lenIn := none, stat := none
          idOut := some (decodeId s.cfg s.buf v), lenOut := some (decodeLen s.buf)
          dout := copyOut (receivedBytes s.buf) 0 s.dout
          trace := s.trace ++ ([.resp (.okByte v)] ++ doutWrites (receivedBytes s.buf) 0 ++ [.done 0]) })

/-- A response that is neither a failure nor the phase's success shape raises BAD_RESPONSE (R181, R232): it is recorded,
and nothing of it is stored. -/
def Obligations.WrongShapeRaisesBadResponse : Prop :=
  ∀ (s : State) (r : Response), codesWritten s → (nextTurn s).1 = .block → s.await = true → s.rspIn = some r →
    (∀ f, r ≠ .fail f) →
    (s.phase = 1 ∧ r ≠ .ok ∨ s.phase = 2 ∧ r ≠ .ok ∨ s.phase = 3 ∧ (∀ b, r ≠ .okBytes b) ∨
      s.phase = 4 ∧ (∀ v, r ≠ .okByte v)) →
    step s = .next
      { (nextTurn s).2 with
        faultReg := 5, phase := 7, await := false, rspIn := none
        port := none, orphans := s.orphans ++ s.port.toList
        trace := s.trace ++ [.resp r] }

/-- A failure ends the command at once (R231, R188, R189): `RESULT` BUS_FAIL, `FAILVAL` unchanged from the answer, IDLE,
`FAULT` as it was, nothing further issued; of a RECEIVE the id and the length are unwritten, and `DOUT` is open. -/
def Obligations.FailureEndsCommand : Prop :=
  ∀ (s : State) (f : FailureValue) (op : BitVec 1), codesWritten s → (nextTurn s).1 = .block → inProgress s →
    s.await = true → s.rspIn = some (.fail f) → s.cmdOp = some op →
    let s1 : State :=
      { (nextTurn s).2 with
        rspIn := none, await := false, phase := 0, result := some 1, failval := some f
        idIn := none, lenIn := none, stat := none, trace := s.trace ++ [.resp (.fail f), .done 1] }
    (op = 0 → step s = .next s1) ∧
    (op = 1 → ∃ d k, step s = .next { s1 with idOut := none, lenOut := none, dout := d, draws := k })

/-- The block has no step in IDLE, in FAULTED, and while its transaction is unanswered (R34, R181, R235): its turn
leaves everything as it is. That having no step is a step to the same state is the model's choice (log 7). -/
def Obligations.BlockWithoutStepWaits : Prop :=
  ∀ s : State, codesWritten s → (nextTurn s).1 = .block →
    (s.phase = 0 ∨ s.phase = 7 ∨ (s.await = true ∧ s.rspIn = none)) → step s = .next (nextTurn s).2

/-! ## The marshaller -/

/-- A standard id in the transmit image (R142, R165): bit by bit, with `EID8` and `EID0` zero, no extended-ID-enable bit,
and bits 31 and 28..11 of the id without effect; packing the id touches no other byte. -/
def Obligations.StandardIdImage : Prop :=
  ∀ (c : Config) (id : LogicalId) (len : Byte) (din : List Byte) (b : Image), id.getLsbD 29 = false →
    let image := encodeFrame c id len din b
    (∀ k, k < 8 → image[0].getLsbD k = id.getLsbD (k + 3)) ∧
    (∀ k, k < 8 → image[1].getLsbD k = (decide (5 ≤ k) && id.getLsbD (k - 5))) ∧
    image[2] = 0 ∧ image[3] = 0 ∧ image[1].getLsbD (exideIndex c) = false ∧
    (∀ k : Fin 13, 4 ≤ k.val → (encodeId c id b)[k] = b[k])

/-- An extended id in the transmit image, INVERSE layout (R143), bit by bit; packing the id touches no other byte. -/
def Obligations.ExtendedIdImageInverse : Prop :=
  ∀ (c : Config) (id : LogicalId) (len : Byte) (din : List Byte) (b : Image),
    id.getLsbD 29 = true → c.txExtLayout = .inverse →
    let image := encodeFrame c id len din b
    (∀ k, k < 8 → image[0].getLsbD k = id.getLsbD (k + 21)) ∧
    (∀ k, k < 8 → image[1].getLsbD k =
      if 5 ≤ k then id.getLsbD (k + 13) else if k < 2 then id.getLsbD (k + 16) else decide (k = exideIndex c)) ∧
    (∀ k, k < 8 → image[2].getLsbD k = id.getLsbD (k + 8)) ∧
    (∀ k, k < 8 → image[3].getLsbD k = id.getLsbD k) ∧
    (∀ k : Fin 13, 4 ≤ k.val → (encodeId c id b)[k] = b[k])

/-- An extended id in the transmit image, LITERAL layout (R144), bit by bit; packing the id touches no other byte. -/
def Obligations.ExtendedIdImageLiteral : Prop :=
  ∀ (c : Config) (id : LogicalId) (len : Byte) (din : List Byte) (b : Image),
    id.getLsbD 29 = true → c.txExtLayout = .literal →
    let image := encodeFrame c id len din b
    (∀ k, k < 8 → image[0].getLsbD k = id.getLsbD (k + 3)) ∧
    (∀ k, k < 8 → image[1].getLsbD k =
      if 5 ≤ k then id.getLsbD (k - 5) else if k < 2 then id.getLsbD (k + 27) else decide (k = exideIndex c)) ∧
    (∀ k, k < 8 → image[2].getLsbD k = id.getLsbD (k + 19)) ∧
    (∀ k, k < 8 → image[3].getLsbD k = id.getLsbD (k + 11)) ∧
    (∀ k : Fin 13, 4 ≤ k.val → (encodeId c id b)[k] = b[k])

/-- The DLC byte of the transmit image (R146, R162): the length under `TX_DLC_MASK`, and the RTR bit; under the mask
`0x0F` the RTR bit position is set if and only if the id asks for a remote frame. -/
def Obligations.TransmitDlcByte : Prop :=
  ∀ (c : Config) (id : LogicalId) (len : Byte) (din : List Byte) (b : Image) (k : Nat), k < 8 →
    (encodeFrame c id len din b)[4].getLsbD k =
      ((len.getLsbD k && (decide (k < 4) || decide (c.txDlcMask = .wholeByte))) ||
        (decide (k = dlcRtrIndex c) && id.getLsbD 30)) ∧
    (c.txDlcMask = .lowNibble → (encodeFrame c id len din b)[4].getLsbD (dlcRtrIndex c) = id.getLsbD 30)

/-- The data bytes of the transmit image (R147, R148): `DIN` for the first `min(LEN, 8)`, and what the image held, a
draw, for the rest. -/
def Obligations.TransmitDataBytes : Prop :=
  ∀ (c : Config) (id : LogicalId) (len : Byte) (din : List Byte) (b : Image) (k : Nat) (hk : k < 8),
    min len.toNat 8 ≤ din.length →
    some ((encodeFrame c id len din b)[5 + k]) = if k < min len.toNat 8 then din[k]? else some b[5 + k]

/-- A length above 8 reads exactly the offsets 0 to 7, once each, in rising order, and copies those eight bytes (R163). -/
def Obligations.OversizedLengthReadsEight : Prop :=
  ∀ (s : State) (slot : BitVec 2) (len : Byte) (id : LogicalId),
    ready s → slot.toNat ≤ 2 → 9 ≤ len.toNat → 8 ≤ s.din.length →
    ∃ t, exec (.transmit slot len id) s = .next t ∧
      t.trace = s.trace ++ [.dinRead 0, .dinRead 1, .dinRead 2, .dinRead 3, .dinRead 4, .dinRead 5, .dinRead 6,
        .dinRead 7] ∧
      t.buf.toList.drop 5 = s.din.take 8

/-- FLAG_TEST (R151): under CORRECT it tests the bit of the mask, under PRECEDENCE_DEFECT bit 0 of the byte, whatever the
mask. -/
def Obligations.FlagTestModes : Prop :=
  ∀ (c : Config) (x : Byte) (k : Nat), k < 8 →
    (c.rxFlagTest = .correct → flagTest c x ((1 : Byte) <<< k) = x.getLsbD k) ∧
    (c.rxFlagTest = .precedenceDefect → flagTest c x ((1 : Byte) <<< k) = x.getLsbD 0)

/-- The received id, bit by bit (R150, R152, R153, R154, R157). -/
def Obligations.ReceivedIdBits : Prop :=
  ∀ (c : Config) (b : Image) (stat : Byte) (k : Nat), k < 32 →
    (decodeId c b stat).getLsbD k =
      if k = 31 then false
      else if k = 30 then flagTest c stat ((1 : Byte) <<< c.rxrtrBit.val)
      else if k = 29 then flagTest c b[1] ((1 : Byte) <<< exideIndex c)
      else if flagTest c b[1] ((1 : Byte) <<< exideIndex c) then
        if 21 ≤ k then b[0].getLsbD (k - 21) else if 18 ≤ k then b[1].getLsbD (k - 13)
        else if 16 ≤ k then b[1].getLsbD (k - 16) else if 8 ≤ k then b[2].getLsbD (k - 8) else b[3].getLsbD k
      else if 11 ≤ k then false else if 3 ≤ k then b[0].getLsbD (k - 3) else b[1].getLsbD (k + 5)

/-- The range of the decoder (R166): bit 31 is 0, the length is 0 to 15, and without EFF bits 28..11 are 0. -/
def Obligations.DecoderRange : Prop :=
  ∀ (c : Config) (b : Image) (stat : Byte),
    (decodeId c b stat).getLsbD 31 = false ∧ (decodeLen b).toNat < 16 ∧
    ((decodeId c b stat).getLsbD 29 = false → ∀ k, 11 ≤ k → k ≤ 28 → (decodeId c b stat).getLsbD k = false)

/-- The received length is the low nibble of DLC (R155, R164). -/
def Obligations.ReceivedLengthIsLowNibble : Prop :=
  ∀ b : Image, (decodeLen b).toNat = b[4].toNat % 16

/-- The received data (R156, R72): `DOUT` takes the first `min(LEN_OUT, 8)` data bytes and keeps the rest, with one
DOUT_WRITE event a byte in rising order and no other. -/
def Obligations.ReceivedDataBytes : Prop :=
  ∀ (b : Image) (d : Payload) (k : Nat) (hk : k < 8),
    (copyOut (receivedBytes b) 0 d)[k] = (if k < min (b[4].toNat % 16) 8 then b[5 + k] else d[k]) ∧
    (doutWrites (receivedBytes b) 0)[k]? =
      (if k < min (b[4].toNat % 16) 8 then some (.doutWrite k b[5 + k]) else none) ∧
    (doutWrites (receivedBytes b) 0).length = min (b[4].toNat % 16) 8

/-- What the decoder does not read (R158): two images and status bytes that agree on the named bits decode alike. -/
def Obligations.DecoderReadsOnlyNamedBits : Prop :=
  ∀ (c : Config) (b b' : Image) (stat stat' : Byte) (d : Payload),
    let tested (m : Nat) (x : Byte) : Bool := x.getLsbD (if c.rxFlagTest = .correct then m else 0)
    b[0] = b'[0] → (∀ k, 5 ≤ k → b[1].getLsbD k = b'[1].getLsbD k) →
    tested (exideIndex c) b[1] = tested (exideIndex c) b'[1] →
    (tested (exideIndex c) b[1] = true →
      (∀ k, k < 2 → b[1].getLsbD k = b'[1].getLsbD k) ∧ b[2] = b'[2] ∧ b[3] = b'[3]) →
    (∀ k, k < 4 → b[4].getLsbD k = b'[4].getLsbD k) →
    (∀ k (_ : k < 8), k < min (b[4].toNat % 16) 8 → b[5 + k] = b'[5 + k]) →
    tested c.rxrtrBit.val stat = tested c.rxrtrBit.val stat' →
    decodeId c b stat = decodeId c b' stat' ∧ decodeLen b = decodeLen b' ∧
      copyOut (receivedBytes b) 0 d = copyOut (receivedBytes b') 0 d

/-- Standard round trip (R159). -/
def Obligations.StandardRoundTrip : Prop :=
  ∀ (c : Config) (x : LogicalId) (len : Byte) (din : List Byte) (b : Image) (stat : Byte) (d : Payload),
    c.rxFlagTest = .correct → x.toNat ≤ 0x7FF → len.toNat ≤ 8 → len.toNat ≤ din.length →
    stat.getLsbD c.rxrtrBit.val = false →
    let image := encodeFrame c x len din b
    decodeId c image stat = x ∧ decodeLen image = len ∧
      ∀ k (_ : k < 8), k < len.toNat → some (copyOut (receivedBytes image) 0 d)[k] = din[k]?

/-- Extended round trip, INVERSE layout (R160). -/
def Obligations.ExtendedRoundTrip : Prop :=
  ∀ (c : Config) (x : LogicalId) (len : Byte) (din : List Byte) (b : Image) (stat : Byte) (d : Payload),
    c.rxFlagTest = .correct → c.txExtLayout = .inverse → x.toNat ≤ 0x1FFFFFFF → len.toNat ≤ 8 →
    len.toNat ≤ din.length → stat.getLsbD c.rxrtrBit.val = false →
    let image := encodeFrame c (x ||| 0x20000000) len din b
    decodeId c image stat = x ||| 0x20000000 ∧ decodeLen image = len ∧
      ∀ k (_ : k < 8), k < len.toNat → some (copyOut (receivedBytes image) 0 d)[k] = din[k]?

/-- The LITERAL layout rotates an extended id (R161): the decoder gives `((x[10:0] << 18) | x[28:11]) | EFF_FLAG`. -/
def Obligations.LiteralLayoutRotates : Prop :=
  ∀ (c : Config) (x : LogicalId) (len : Byte) (din : List Byte) (b : Image) (stat : Byte),
    c.rxFlagTest = .correct → c.txExtLayout = .literal → x.toNat ≤ 0x1FFFFFFF →
    stat.getLsbD c.rxrtrBit.val = false →
    decodeId c (encodeFrame c (x ||| 0x20000000) len din b) stat =
      ((x &&& 0x7FF) <<< 18 ||| x >>> 11) ||| 0x20000000

/-! ## Whole commands and the whole machine -/

/-- A TRANSMIT whose transactions are answered at once is the macro step of R190: seven turns from IDLE, the whole next
state, for every pair of answers of the right shape. After an early failure the turns left over change nothing: that is
the model's choice (log 7). -/
def Obligations.TransmitRunIsMacroStep : Prop :=
  ∀ (s : State) (slot : BitVec 2) (len : Byte) (id : LogicalId) (din : List Byte) (r1 r2 : Answer Unit)
    (rest : List Turn),
    ready s → slot.toNat ≤ 2 → min len.toNat 8 ≤ din.length →
    s.agenda = answeredSchedule (commandWord 0 slot len) id din r1.toOk r2.toOk ++ rest →
    core.run 7 s = .next
      { s with
        agenda := rest, din := din
        phase := 0, await := false, rspIn := none, port := none
        cmdOp := some 0, cmdSlot := some slot, idIn := none, lenIn := none, stat := none
        buf := transmitImage s.cfg id len din s.draws
        draws := s.draws + 13
        result := some (match macroTransmit r1 r2 with | .ok _ => 0 | .error _ => 1)
        failval := match macroTransmit r1 r2 with | .ok _ => none | .error f => some f
        idOut := none, lenOut := none
        trace := s.trace ++ transmitTrace slot len (transmitImage s.cfg id len din s.draws) r1 r2 }

/-- A RECEIVE whose transactions are answered at once is the macro step of R190: seven turns from IDLE, for every pair
of answers of the right shape. After an early failure the turns left over change nothing: that is the model's choice
(log 7). -/
def Obligations.ReceiveRunIsMacroStep : Prop :=
  ∀ (s : State) (slot : BitVec 2) (id : LogicalId) (din : List Byte) (r1 : Answer Image) (r2 : Answer Byte)
    (rest : List Turn) (h : slot.toNat < 2),
    ready s → s.agenda = answeredSchedule (commandWord 1 slot 0) id din r1.toBytes r2.toByte ++ rest →
    ∃ t, core.run 7 s = .next t ∧ t.agenda = rest ∧ t.phase = 0 ∧ t.await = false ∧ t.rspIn = none ∧ t.port = none ∧
      t.faultReg = s.faultReg ∧ t.env = s.env ∧ t.cfg = s.cfg ∧
      t.trace = s.trace ++ receiveTrace slot s.cfg.rxctrlAddr[slot.toNat] r1 r2 ∧
      match macroReceive s.cfg s.dout r1 r2 with
      | .ok (idOut, lenOut, dout) =>
        t.result = some 0 ∧ t.failval = none ∧ t.idOut = some idOut ∧ t.lenOut = some lenOut ∧ t.dout = dout
      | .error f => t.result = some 1 ∧ t.failval = some f ∧ t.idOut = none ∧ t.lenOut = none

/-- A TRANSMIT that the reference environment carries out without a failure (R93) leaves the image in the slot's transmit
buffer and the slot's request set, and the other buffers and requests as they were. A statement about that environment,
not about the controller (log 11, log 12). -/
def Obligations.ServedTransmitLoadsAndRequests : Prop :=
  ∀ (s : State) (slot : BitVec 2) (len : Byte) (id : LogicalId) (din : List Byte) (rest : List Turn)
    (h : slot.toNat < 3),
    ready s → min len.toNat 8 ≤ din.length → s.env.fails = [] →
    s.agenda = servedSchedule (commandWord 0 slot len) id din ++ rest →
    ∃ t, core.run 7 s = .next t ∧ t.agenda = rest ∧ t.result = some 0 ∧ t.phase = 0 ∧
      t.env = { s.env with
        txb := s.env.txb.set slot.toNat (transmitImage s.cfg id len din s.draws)
        txreq := s.env.txreq.set slot.toNat true
        taken := s.env.taken + 2 }

/-- Every command ends once its transactions are answered (R275), whatever the answers are: from a block at rest, after
seven turns, the block is at rest again, or a fault has stopped it and the fault register says so; and the run has then
ended well exactly where the block is at rest and the caller presents no further command (R276). The turns left over
after an early end change nothing: that is the model's choice (log 7). -/
def Obligations.AnsweredCommandEnds : Prop :=
  ∀ (s : State) (cmdw : BitVec 16) (id : LogicalId) (din : List Byte) (r1 r2 : Response) (rest : List Turn),
    atRest s → s.agenda = answeredSchedule cmdw id din r1 r2 ++ rest →
    ∃ t, core.run 7 s = .next t ∧ t.agenda = rest ∧
      (atRest t ∨ (isFaulted t ∧ t.faultReg ≠ 0 ∧ t.await = false ∧ t.rspIn = none)) ∧
      (endedWell t ↔ ¬ isFaulted t ∧ ∀ cmdw' id' din', .command cmdw' id' din' ∉ rest)

/-- The values after reset (R260) that the spec gives. -/
def Obligations.ResetValues : Prop :=
  State.reset.phase = 0 ∧ State.reset.await = false ∧ State.reset.rspIn = none ∧ State.reset.cmdOp = none ∧
  State.reset.cmdSlot = none ∧ State.reset.idIn = none ∧ State.reset.lenIn = none ∧ State.reset.stat = none ∧
  State.reset.result = none ∧ State.reset.failval = none ∧ State.reset.idOut = none ∧ State.reset.lenOut = none ∧
  State.reset.faultReg = 0 ∧ State.reset.trace = []

/-- Asserting reset at any time (R260, R261): the block's registers take those values from every state, FAULTED
included, `BUF` is open, an outstanding transaction is abandoned, and the controller, `DIN` and `DOUT` are not touched. That the
index k of the reference environment restarts is log 12. -/
def Obligations.ResetFromAnyState : Prop :=
  ∀ (s : State) (rest : List Turn), s.agenda = .reset :: rest →
    ∃ b k, step s = .next
      { s with
        agenda := rest
        phase := 0, await := false, rspIn := none, cmdOp := none, cmdSlot := none, idIn := none, lenIn := none
        buf := b, stat := none, result := none, failval := none, idOut := none, lenOut := none
        faultReg := 0, trace := [], port := none, orphans := s.orphans ++ s.port.toList
        env := { s.env with taken := 0 }, draws := k }

/-- The machine is in a good state after reset. -/
def Obligations.ResetIsGood : Prop := GoodState State.reset

/-- Every step from a good state gives a good state: the registers agree, the port and the abandoned transactions are
ones the block issues, the trace follows the protocol of R221, and the register memory is in its canonical form. -/
def Obligations.StepKeepsGoodState : Prop :=
  ∀ s t : State, GoodState s → step s = .next t → GoodState t

/-- From a good state no turn stops the machine but two: the caller reading a register that is unwritten (R14), and the
surrounding software handing the environment what is no transaction or names no buffer (log 15, log 16). That an agent
without a step takes a step to the same state is the model's choice (log 7). -/
def Obligations.GoodStateRuns : Prop :=
  ∀ s : State, GoodState s →
    (∃ t, step s = .next t) ∨
    (∃ r f, (nextTurn s).1 = .read r ∧ readOut r s = .error f ∧ step s = .fault f) ∨
    (∃ t, (nextTurn s).1 = .software t ∧ (∀ i, decodeTransaction t = .ok i → i.wellFormed = false))

/-- No step changes the configuration (R50, R32). -/
def Obligations.ConfigurationIsFixed : Prop :=
  ∀ s t : State, step s = .next t → t.cfg = s.cfg

/-- The block touches the controller only through transactions (R70, R261): a turn of the block, a presented command and a
reset leave the controller's buffers, requests and registers as they are. -/
def Obligations.BlockNeverTouchesController : Prop :=
  ∀ s t : State, step s = .next t →
    ((nextTurn s).1 = .block ∨ (nextTurn s).1 = .reset ∨ ∃ cmdw id din, (nextTurn s).1 = .command cmdw id din) →
    t.env.txb = s.env.txb ∧ t.env.rxb = s.env.rxb ∧ t.env.reg = s.env.reg ∧ t.env.txreq = s.env.txreq ∧
      t.env.fails = s.env.fails

/-- `DIN` is read only in the acceptance step of a TRANSMIT, at offsets below `min(LEN, 8)` (R193, R71): a step that records
a read is a presented command, in IDLE, whose word decodes to a TRANSMIT. -/
def Obligations.DinReadOnlyAtAcceptance : Prop :=
  ∀ (s t : State) (k : Nat), step s = .next t → s.trace.count (.dinRead k) < t.trace.count (.dinRead k) →
    ∃ cmdw id din slot len, (nextTurn s).1 = .command cmdw id din ∧ s.phase = 0 ∧
      decodeCommand cmdw id = .ok (.transmit slot len id) ∧ k < min len.toNat 8

/-- `DOUT` changes only by the caller itself and by the completion of a RECEIVE (R72, R189), in a state whose registers
agree. -/
def Obligations.DoutWriters : Prop :=
  ∀ s t : State, RegistersAgree s → step s = .next t → t.dout ≠ s.dout →
    (∃ d, (nextTurn s).1 = .setDout d) ∨ ((nextTurn s).1 = .block ∧ inReceive s ∧ t.phase = 0 ∧ t.result ≠ none)

/-- The block computes nothing from its trace (R39): a run with an earlier history in front of the trace takes the same
steps, with that history still in front. A reset clears the trace, so it is not such a step. -/
def Obligations.TraceIsNeverRead : Prop :=
  ∀ (s t : State) (history : List TraceEvent), (nextTurn s).1 ≠ .reset → step s = .next t →
    step { s with trace := history ++ s.trace } = .next { t with trace := history ++ t.trace }

/-- Reading a response register that is unwritten faults, and one that is written gives its value (R14, R274). -/
def Obligations.CallerReadsWrittenOnly : Prop :=
  ∀ (s : State) (rest : List Turn),
    (s.agenda = .read .result :: rest → step s = match s.result with
      | none => .fault (.unwrittenRegister .result)
      | some v => .next { s with agenda := rest, seen := s.seen ++ [.result v] }) ∧
    (s.agenda = .read .failval :: rest → step s = match s.failval with
      | none => .fault (.unwrittenRegister .failval)
      | some v => .next { s with agenda := rest, seen := s.seen ++ [.failval v] }) ∧
    (s.agenda = .read .idOut :: rest → step s = match s.idOut with
      | none => .fault (.unwrittenRegister .idOut)
      | some v => .next { s with agenda := rest, seen := s.seen ++ [.idOut v] }) ∧
    (s.agenda = .read .lenOut :: rest → step s = match s.lenOut with
      | none => .fault (.unwrittenRegister .lenOut)
      | some v => .next { s with agenda := rest, seen := s.seen ++ [.lenOut v] })

/-- A configuration outside the legal ranges of R8 is refused, and one inside them is given. R10 says so of `EXIDE_BIT` and
`DLC_RTR_BIT`; that `RXRTR_BIT` and `TX_DLC_MASK` are refused outside their ranges in the same way is log 21. -/
def Obligations.ConfigurationRanges : Prop :=
  ∀ (exide dlcRtr rxrtr : Nat) (mask : Byte) (layout : TxExtLayout) (test : RxFlagTest) (addr : Vector Byte 2),
    (∃ c, configure exide dlcRtr rxrtr mask layout test addr = .ok c ∧ exideIndex c = exide ∧
        dlcRtrIndex c = dlcRtr ∧ c.rxrtrBit.val = rxrtr ∧ txDlcMaskByte c = mask ∧ c.txExtLayout = layout ∧
        c.rxFlagTest = test ∧ c.rxctrlAddr = addr ∧
        2 ≤ exide ∧ exide ≤ 4 ∧ 4 ≤ dlcRtr ∧ dlcRtr ≤ 7 ∧ rxrtr ≤ 7 ∧ (mask = 0x0F ∨ mask = 0xFF)) ∨
    (configure exide dlcRtr rxrtr mask layout test addr = .error .illegalConfiguration ∧
      ¬ (2 ≤ exide ∧ exide ≤ 4 ∧ 4 ≤ dlcRtr ∧ dlcRtr ≤ 7 ∧ rxrtr ≤ 7 ∧ (mask = 0x0F ∨ mask = 0xFF)))

/-- Disassembly is the inverse of assembly (R124): what a call assembles to is read back as the call, its id expression as
the number it denotes. -/
def Obligations.DisassemblyInvertsAssembly : Prop :=
  ∀ (call : Call) (cmd : Command), assemble call = some cmd →
    disassemble cmd = some (match call with
      | .transmit slot id bytes length => .transmit slot (.number (exprValue id)) bytes length
      | .receive slot => .receive slot)
end

