-- ==== Sys2Proof/Laws/Decode.lean ====
section
/-! SUPPORT. The bits of a laid-out word, its fields, which are those it was laid out from (R111, R118), and an image on
the port. -/

namespace Sys2Proof

theorem getElem_field {w : Nat} (lo width i : Nat) (v : BitVec w) (h : i < width) :
    (field lo width v)[i] = v.getLsbD (lo + i) := by
  simp [field]

theorem getLsbD_field {w : Nat} (lo width i : Nat) (v : BitVec w) :
    (field lo width v).getLsbD i = (decide (i < width) && v.getLsbD (lo + i)) := by
  simp [field]

/-- The bits of a command word (R111). -/
theorem getElem_commandWord (op slot : BitVec 2) (len : Byte) (i : Nat) (hi : i < 16) :
    (commandWord op slot len)[i] = if i < 8 then len.getLsbD i else if i < 12 then false
      else if i < 14 then slot.getLsbD (i - 12) else op.getLsbD (i - 14) := by
  have h : (commandWord op slot len)[i] =
      BitVec.getLsbD (w := 2 + 2 + 4 + 8) (op ++ slot ++ (0 : BitVec 4) ++ len) i := rfl
  rw [h]
  simp only [BitVec.getLsbD_append]
  simp only [Nat.sub_sub, Nat.reduceAdd, show (i - 8 < 4) = (i < 12) from propext (by omega),
    show (i - 12 < 2) = (i < 14) from propext (by omega), BitVec.ofNat_eq_ofNat, BitVec.getLsbD_zero]

/-- The bits of a transaction header (R118). -/
theorem getElem_header (kind : BitVec 3) (tslot : BitVec 2) (addr mask value : Byte) (i : Nat) (hi : i < 32) :
    (header kind tslot addr mask value)[i] = if i < 8 then value.getLsbD i else if i < 16 then mask.getLsbD (i - 8)
      else if i < 24 then addr.getLsbD (i - 16) else if i < 27 then false
      else if i < 29 then tslot.getLsbD (i - 27) else kind.getLsbD (i - 29) := by
  have h : (header kind tslot addr mask value)[i] =
      BitVec.getLsbD (w := 3 + 2 + 3 + 8 + 8 + 8) (kind ++ tslot ++ (0 : BitVec 3) ++ addr ++ mask ++ value) i := rfl
  rw [h]
  simp only [BitVec.getLsbD_append]
  simp only [Nat.sub_sub, Nat.reduceAdd, show (i - 8 < 8) = (i < 16) from propext (by omega),
    show (i - 16 < 8) = (i < 24) from propext (by omega), show (i - 24 < 3) = (i < 27) from propext (by omega),
    show (i - 27 < 2) = (i < 29) from propext (by omega), BitVec.ofNat_eq_ofNat, BitVec.getLsbD_zero]

section commandFields
variable (op slot : BitVec 2) (len : Byte)

@[simp] theorem field_commandWord_op : field 14 2 (commandWord op slot len) = op := by
  ext i hi
  interval_cases i <;> simp [getElem_field, getElem_commandWord]
@[simp] theorem field_commandWord_slot : field 12 2 (commandWord op slot len) = slot := by
  ext i hi
  interval_cases i <;> simp [getElem_field, getElem_commandWord]
@[simp] theorem field_commandWord_rsv : field 8 4 (commandWord op slot len) = 0 := by
  ext i hi
  interval_cases i <;> simp [getElem_field, getElem_commandWord]
@[simp] theorem field_commandWord_len : field 0 8 (commandWord op slot len) = len := by
  ext i hi
  interval_cases i <;> simp [getElem_field, getElem_commandWord]
end commandFields

section headerFields
variable (kind : BitVec 3) (tslot : BitVec 2) (addr mask value : Byte)

@[simp] theorem field_header_kind : field 29 3 (header kind tslot addr mask value) = kind := by
  ext i hi
  interval_cases i <;> simp [getElem_field, getElem_header]
@[simp] theorem field_header_tslot : field 27 2 (header kind tslot addr mask value) = tslot := by
  ext i hi
  interval_cases i <;> simp [getElem_field, getElem_header]
@[simp] theorem field_header_rsv : field 24 3 (header kind tslot addr mask value) = 0 := by
  ext i hi
  interval_cases i <;> simp [getElem_field, getElem_header]
@[simp] theorem field_header_addr : field 16 8 (header kind tslot addr mask value) = addr := by
  ext i hi
  interval_cases i <;> simp [getElem_field, getElem_header]
@[simp] theorem field_header_mask : field 8 8 (header kind tslot addr mask value) = mask := by
  ext i hi
  interval_cases i <;> simp [getElem_field, getElem_header]
@[simp] theorem field_header_value : field 0 8 (header kind tslot addr mask value) = value := by
  ext i hi
  interval_cases i <;> simp [getElem_field, getElem_header]
end headerFields

/-- The payload of a LOAD_TX on the port is read back as the image that went out (R79). -/
@[simp] theorem imageOfBytes_toList (b : Image) : imageOfBytes b.toList = some b := by
  simp only [imageOfBytes, Vector.length_toList, dif_pos]
  rfl

/-- Only 13 bytes are an image (R119). -/
theorem imageOfBytes_some {bytes : List Byte} {b : Image} (h : imageOfBytes bytes = some b) : b.toList = bytes := by
  unfold imageOfBytes at h
  split at h
  · obtain rfl := Option.some.inj h
    rfl
  · cases h

/-- Everything the command port's decoder can give (R116, R117). -/
theorem decodeCommand_cases (cmdw : BitVec 16) (id : LogicalId) :
    decodeCommand cmdw id = .error .illegalCommand ∨
    decodeCommand cmdw id = .ok (.transmit (field 12 2 cmdw) (field 0 8 cmdw) id) ∨
    decodeCommand cmdw id = .ok (.receive (field 12 2 cmdw)) := by
  simp only [decodeCommand]
  split
  · exact .inl rfl
  · split
    · exact .inr (.inl rfl)
    · exact .inr (.inr rfl)

end Sys2Proof
end

