-- ==== Sys2Proof/Laws/Memory.lean ====
section
/-! SUPPORT. The register memory: a read after a write, and that a write keeps the canonical form. -/

namespace Sys2Proof.Machine

theorem readCell_writeCell_same (m : Memory) (a : Nat) (v : Byte) : readCell (writeCell m a v) a = some v := by
  induction m with
  | nil => simp [writeCell, readCell]
  | cons c m ih =>
    obtain ⟨b, w⟩ := c
    unfold writeCell
    split
    · simp [readCell]
    · split
      · simp [readCell]
      · rename_i h1 h2
        simp [readCell, Ne.symm h2, ih]

theorem readCell_writeCell_other (m : Memory) (a b : Nat) (v : Byte) (h : a ≠ b) :
    readCell (writeCell m a v) b = readCell m b := by
  induction m with
  | nil => simp [writeCell, readCell, h]
  | cons c m ih =>
    obtain ⟨d, w⟩ := c
    unfold writeCell
    split
    · simp [readCell, h]
    · split
      · rename_i h2
        subst h2
        simp [readCell, h]
      · simp [readCell, ih]

theorem mem_writeCell (m : Memory) (a : Nat) (v : Byte) (c : Host.Cell) (h : c ∈ writeCell m a v) :
    c = (a, v) ∨ c ∈ m := by
  induction m with
  | nil => simpa [writeCell] using h
  | cons d m ih =>
    obtain ⟨b, w⟩ := d
    unfold writeCell at h
    split at h
    · simpa using h
    · split at h
      · rcases List.mem_cons.mp h with rfl | h
        · exact .inl rfl
        · exact .inr (List.mem_cons_of_mem _ h)
      · rcases List.mem_cons.mp h with rfl | h
        · exact .inr (List.mem_cons_self ..)
        · exact (ih h).imp id (List.mem_cons_of_mem _)

theorem writeCell_rising (m : Memory) (a : Nat) (v : Byte) (h : m.Pairwise fun x y => x.1 < y.1) :
    (writeCell m a v).Pairwise fun x y => x.1 < y.1 := by
  induction m with
  | nil => simp [writeCell]
  | cons d m ih =>
    obtain ⟨b, w⟩ := d
    obtain ⟨hb, hm⟩ := List.pairwise_cons.mp h
    unfold writeCell
    split
    · rename_i hlt
      refine List.pairwise_cons.mpr ⟨fun c hc => ?_, h⟩
      rcases List.mem_cons.mp hc with rfl | hc
      · exact hlt
      · exact Nat.lt_trans hlt (hb c hc)
    · split
      · rename_i heq
        exact List.pairwise_cons.mpr ⟨fun c hc => heq ▸ hb c hc, hm⟩
      · refine List.pairwise_cons.mpr ⟨fun c hc => ?_, ih hm⟩
        rcases mem_writeCell m a v c hc with rfl | hc
        · simp only; omega
        · exact hb c hc

/-- A write of an 8-bit address keeps the canonical form. -/
theorem writeCell_wf (m : Memory) (a : Byte) (v : Byte) (h : Memory.wf m = true) :
    Memory.wf (writeCell m a.toNat v) = true := by
  simp only [Memory.wf, Bool.and_eq_true, decide_eq_true_eq, List.all_eq_true] at h ⊢
  refine ⟨writeCell_rising m _ v h.1, fun c hc => ?_⟩
  rcases mem_writeCell m _ v c hc with rfl | hc
  · exact a.isLt
  · exact h.2 c hc

theorem writeRegister_wf (a v : Byte) (s : State) (h : Memory.wf s.env.reg = true) :
    Memory.wf (writeRegister a v s).env.reg = true := writeCell_wf s.env.reg a v h

theorem fixRegister_wf (a : Byte) (s : State) (h : Memory.wf s.env.reg = true) :
    Memory.wf (fixRegister a s).env.reg = true := by
  unfold fixRegister
  split
  · exact h
  · exact writeCell_wf s.env.reg a _ h

/-- The register memory after reset is in canonical form. -/
theorem reset_memory_wf : Memory.wf State.reset.env.reg = true := by decide

/-- A register whose value is fixed by a reading has that value from then on. -/
theorem readCell_fixRegister (a : Byte) (s : State) :
    readCell (fixRegister a s).env.reg a.toNat = some (registerValue a s) := by
  unfold fixRegister registerValue
  cases h : readCell s.env.reg a.toNat <;> simp [h, readCell_writeCell_same]

/-- Fixing one register's value leaves every other register as it was. -/
theorem readCell_fixRegister_other (a : Byte) (b : Nat) (s : State) (h : a.toNat ≠ b) :
    readCell (fixRegister a s).env.reg b = readCell s.env.reg b := by
  unfold fixRegister
  cases readCell s.env.reg a.toNat <;> simp [readCell_writeCell_other _ _ _ _ h]

theorem registerValue_fixRegister (a : Byte) (s : State) : registerValue a (fixRegister a s) = registerValue a s := by
  rw [registerValue, readCell_fixRegister]; rfl

end Sys2Proof.Machine
end

