-- ==== Sys2Proof/Laws/State.lean ====
section
/-! SUPPORT. One small lemma per field of the state and named update: what the field holds after it. Every one is true
by definition, so no later proof unfolds an update. -/

namespace Sys2Proof.Machine

section abandonPortFields
variable (s : State)
@[simp] theorem abandonPort_cfg : (abandonPort s).cfg = s.cfg := rfl
@[simp] theorem abandonPort_phase : (abandonPort s).phase = s.phase := rfl
@[simp] theorem abandonPort_await : (abandonPort s).await = s.await := rfl
@[simp] theorem abandonPort_rspIn : (abandonPort s).rspIn = s.rspIn := rfl
@[simp] theorem abandonPort_cmdOp : (abandonPort s).cmdOp = s.cmdOp := rfl
@[simp] theorem abandonPort_cmdSlot : (abandonPort s).cmdSlot = s.cmdSlot := rfl
@[simp] theorem abandonPort_idIn : (abandonPort s).idIn = s.idIn := rfl
@[simp] theorem abandonPort_lenIn : (abandonPort s).lenIn = s.lenIn := rfl
@[simp] theorem abandonPort_buf : (abandonPort s).buf = s.buf := rfl
@[simp] theorem abandonPort_stat : (abandonPort s).stat = s.stat := rfl
@[simp] theorem abandonPort_result : (abandonPort s).result = s.result := rfl
@[simp] theorem abandonPort_failval : (abandonPort s).failval = s.failval := rfl
@[simp] theorem abandonPort_idOut : (abandonPort s).idOut = s.idOut := rfl
@[simp] theorem abandonPort_lenOut : (abandonPort s).lenOut = s.lenOut := rfl
@[simp] theorem abandonPort_faultReg : (abandonPort s).faultReg = s.faultReg := rfl
@[simp] theorem abandonPort_trace : (abandonPort s).trace = s.trace := rfl
@[simp] theorem abandonPort_port : (abandonPort s).port = none := rfl
@[simp] theorem abandonPort_din : (abandonPort s).din = s.din := rfl
@[simp] theorem abandonPort_dout : (abandonPort s).dout = s.dout := rfl
@[simp] theorem abandonPort_seen : (abandonPort s).seen = s.seen := rfl
@[simp] theorem abandonPort_env : (abandonPort s).env = s.env := rfl
@[simp] theorem abandonPort_orphans : (abandonPort s).orphans = s.orphans ++ s.port.toList := rfl
@[simp] theorem abandonPort_requester : (abandonPort s).requester = s.requester := rfl
@[simp] theorem abandonPort_softwareRsp : (abandonPort s).softwareRsp = s.softwareRsp := rfl
@[simp] theorem abandonPort_agenda : (abandonPort s).agenda = s.agenda := rfl
@[simp] theorem abandonPort_draws : (abandonPort s).draws = s.draws := rfl
end abandonPortFields

section raiseFaultFields
variable (code : BitVec 3) (s : State)
@[simp] theorem raiseFault_cfg : (raiseFault code s).cfg = s.cfg := rfl
@[simp] theorem raiseFault_phase : (raiseFault code s).phase = Phase.faulted := rfl
@[simp] theorem raiseFault_await : (raiseFault code s).await = false := rfl
@[simp] theorem raiseFault_rspIn : (raiseFault code s).rspIn = none := rfl
@[simp] theorem raiseFault_cmdOp : (raiseFault code s).cmdOp = s.cmdOp := rfl
@[simp] theorem raiseFault_cmdSlot : (raiseFault code s).cmdSlot = s.cmdSlot := rfl
@[simp] theorem raiseFault_idIn : (raiseFault code s).idIn = s.idIn := rfl
@[simp] theorem raiseFault_lenIn : (raiseFault code s).lenIn = s.lenIn := rfl
@[simp] theorem raiseFault_buf : (raiseFault code s).buf = s.buf := rfl
@[simp] theorem raiseFault_stat : (raiseFault code s).stat = s.stat := rfl
@[simp] theorem raiseFault_result : (raiseFault code s).result = s.result := rfl
@[simp] theorem raiseFault_failval : (raiseFault code s).failval = s.failval := rfl
@[simp] theorem raiseFault_idOut : (raiseFault code s).idOut = s.idOut := rfl
@[simp] theorem raiseFault_lenOut : (raiseFault code s).lenOut = s.lenOut := rfl
@[simp] theorem raiseFault_faultReg : (raiseFault code s).faultReg = code := rfl
@[simp] theorem raiseFault_trace : (raiseFault code s).trace = s.trace := rfl
@[simp] theorem raiseFault_port : (raiseFault code s).port = none := rfl
@[simp] theorem raiseFault_din : (raiseFault code s).din = s.din := rfl
@[simp] theorem raiseFault_dout : (raiseFault code s).dout = s.dout := rfl
@[simp] theorem raiseFault_seen : (raiseFault code s).seen = s.seen := rfl
@[simp] theorem raiseFault_env : (raiseFault code s).env = s.env := rfl
@[simp] theorem raiseFault_orphans : (raiseFault code s).orphans = s.orphans ++ s.port.toList := rfl
@[simp] theorem raiseFault_requester : (raiseFault code s).requester = s.requester := rfl
@[simp] theorem raiseFault_softwareRsp : (raiseFault code s).softwareRsp = s.softwareRsp := rfl
@[simp] theorem raiseFault_agenda : (raiseFault code s).agenda = s.agenda := rfl
@[simp] theorem raiseFault_draws : (raiseFault code s).draws = s.draws := rfl
end raiseFaultFields

section resetBlockFields
variable (s : State)
@[simp] theorem resetBlock_cfg : (resetBlock s).cfg = s.cfg := rfl
@[simp] theorem resetBlock_phase : (resetBlock s).phase = Phase.idle := rfl
@[simp] theorem resetBlock_await : (resetBlock s).await = false := rfl
@[simp] theorem resetBlock_rspIn : (resetBlock s).rspIn = none := rfl
@[simp] theorem resetBlock_cmdOp : (resetBlock s).cmdOp = none := rfl
@[simp] theorem resetBlock_cmdSlot : (resetBlock s).cmdSlot = none := rfl
@[simp] theorem resetBlock_idIn : (resetBlock s).idIn = none := rfl
@[simp] theorem resetBlock_lenIn : (resetBlock s).lenIn = none := rfl
@[simp] theorem resetBlock_buf : (resetBlock s).buf = nextDraws s 13 := rfl
@[simp] theorem resetBlock_stat : (resetBlock s).stat = none := rfl
@[simp] theorem resetBlock_result : (resetBlock s).result = none := rfl
@[simp] theorem resetBlock_failval : (resetBlock s).failval = none := rfl
@[simp] theorem resetBlock_idOut : (resetBlock s).idOut = none := rfl
@[simp] theorem resetBlock_lenOut : (resetBlock s).lenOut = none := rfl
@[simp] theorem resetBlock_faultReg : (resetBlock s).faultReg = FaultCode.none := rfl
@[simp] theorem resetBlock_trace : (resetBlock s).trace = [] := rfl
@[simp] theorem resetBlock_port : (resetBlock s).port = none := rfl
@[simp] theorem resetBlock_din : (resetBlock s).din = s.din := rfl
@[simp] theorem resetBlock_dout : (resetBlock s).dout = s.dout := rfl
@[simp] theorem resetBlock_seen : (resetBlock s).seen = s.seen := rfl
@[simp] theorem resetBlock_env : (resetBlock s).env = { s.env with taken := 0 } := rfl
@[simp] theorem resetBlock_orphans : (resetBlock s).orphans = s.orphans ++ s.port.toList := rfl
@[simp] theorem resetBlock_requester : (resetBlock s).requester = s.requester := rfl
@[simp] theorem resetBlock_softwareRsp : (resetBlock s).softwareRsp = s.softwareRsp := rfl
@[simp] theorem resetBlock_agenda : (resetBlock s).agenda = s.agenda := rfl
@[simp] theorem resetBlock_draws : (resetBlock s).draws = s.draws + 13 := rfl
end resetBlockFields

section writeRegisterFields
variable (a v : Byte) (s : State)
@[simp] theorem writeRegister_cfg : (writeRegister a v s).cfg = s.cfg := rfl
@[simp] theorem writeRegister_phase : (writeRegister a v s).phase = s.phase := rfl
@[simp] theorem writeRegister_await : (writeRegister a v s).await = s.await := rfl
@[simp] theorem writeRegister_rspIn : (writeRegister a v s).rspIn = s.rspIn := rfl
@[simp] theorem writeRegister_cmdOp : (writeRegister a v s).cmdOp = s.cmdOp := rfl
@[simp] theorem writeRegister_cmdSlot : (writeRegister a v s).cmdSlot = s.cmdSlot := rfl
@[simp] theorem writeRegister_idIn : (writeRegister a v s).idIn = s.idIn := rfl
@[simp] theorem writeRegister_lenIn : (writeRegister a v s).lenIn = s.lenIn := rfl
@[simp] theorem writeRegister_buf : (writeRegister a v s).buf = s.buf := rfl
@[simp] theorem writeRegister_stat : (writeRegister a v s).stat = s.stat := rfl
@[simp] theorem writeRegister_result : (writeRegister a v s).result = s.result := rfl
@[simp] theorem writeRegister_failval : (writeRegister a v s).failval = s.failval := rfl
@[simp] theorem writeRegister_idOut : (writeRegister a v s).idOut = s.idOut := rfl
@[simp] theorem writeRegister_lenOut : (writeRegister a v s).lenOut = s.lenOut := rfl
@[simp] theorem writeRegister_faultReg : (writeRegister a v s).faultReg = s.faultReg := rfl
@[simp] theorem writeRegister_trace : (writeRegister a v s).trace = s.trace := rfl
@[simp] theorem writeRegister_port : (writeRegister a v s).port = s.port := rfl
@[simp] theorem writeRegister_din : (writeRegister a v s).din = s.din := rfl
@[simp] theorem writeRegister_dout : (writeRegister a v s).dout = s.dout := rfl
@[simp] theorem writeRegister_seen : (writeRegister a v s).seen = s.seen := rfl
@[simp] theorem writeRegister_env : (writeRegister a v s).env = { s.env with reg := writeCell s.env.reg a.toNat v } := rfl
@[simp] theorem writeRegister_orphans : (writeRegister a v s).orphans = s.orphans := rfl
@[simp] theorem writeRegister_requester : (writeRegister a v s).requester = s.requester := rfl
@[simp] theorem writeRegister_softwareRsp : (writeRegister a v s).softwareRsp = s.softwareRsp := rfl
@[simp] theorem writeRegister_agenda : (writeRegister a v s).agenda = s.agenda := rfl
@[simp] theorem writeRegister_draws : (writeRegister a v s).draws = s.draws := rfl
end writeRegisterFields

section fixRegisterFields
variable (a : Byte) (s : State)
@[simp] theorem fixRegister_cfg : (fixRegister a s).cfg = s.cfg := rfl
@[simp] theorem fixRegister_phase : (fixRegister a s).phase = s.phase := rfl
@[simp] theorem fixRegister_await : (fixRegister a s).await = s.await := rfl
@[simp] theorem fixRegister_rspIn : (fixRegister a s).rspIn = s.rspIn := rfl
@[simp] theorem fixRegister_cmdOp : (fixRegister a s).cmdOp = s.cmdOp := rfl
@[simp] theorem fixRegister_cmdSlot : (fixRegister a s).cmdSlot = s.cmdSlot := rfl
@[simp] theorem fixRegister_idIn : (fixRegister a s).idIn = s.idIn := rfl
@[simp] theorem fixRegister_lenIn : (fixRegister a s).lenIn = s.lenIn := rfl
@[simp] theorem fixRegister_buf : (fixRegister a s).buf = s.buf := rfl
@[simp] theorem fixRegister_stat : (fixRegister a s).stat = s.stat := rfl
@[simp] theorem fixRegister_result : (fixRegister a s).result = s.result := rfl
@[simp] theorem fixRegister_failval : (fixRegister a s).failval = s.failval := rfl
@[simp] theorem fixRegister_idOut : (fixRegister a s).idOut = s.idOut := rfl
@[simp] theorem fixRegister_lenOut : (fixRegister a s).lenOut = s.lenOut := rfl
@[simp] theorem fixRegister_faultReg : (fixRegister a s).faultReg = s.faultReg := rfl
@[simp] theorem fixRegister_trace : (fixRegister a s).trace = s.trace := rfl
@[simp] theorem fixRegister_port : (fixRegister a s).port = s.port := rfl
@[simp] theorem fixRegister_din : (fixRegister a s).din = s.din := rfl
@[simp] theorem fixRegister_dout : (fixRegister a s).dout = s.dout := rfl
@[simp] theorem fixRegister_seen : (fixRegister a s).seen = s.seen := rfl
@[simp] theorem fixRegister_env : (fixRegister a s).env = { s.env with reg := if (readCell s.env.reg a.toNat).isSome then s.env.reg else writeCell s.env.reg a.toNat (Config.drawByte s.draws) } := rfl
@[simp] theorem fixRegister_orphans : (fixRegister a s).orphans = s.orphans := rfl
@[simp] theorem fixRegister_requester : (fixRegister a s).requester = s.requester := rfl
@[simp] theorem fixRegister_softwareRsp : (fixRegister a s).softwareRsp = s.softwareRsp := rfl
@[simp] theorem fixRegister_agenda : (fixRegister a s).agenda = s.agenda := rfl
@[simp] theorem fixRegister_draws : (fixRegister a s).draws = if (readCell s.env.reg a.toNat).isSome then s.draws else s.draws + 1 := rfl
end fixRegisterFields

section takeTransactionFields
variable (s : State)
@[simp] theorem takeTransaction_cfg : (takeTransaction s).cfg = s.cfg := rfl
@[simp] theorem takeTransaction_phase : (takeTransaction s).phase = s.phase := rfl
@[simp] theorem takeTransaction_await : (takeTransaction s).await = s.await := rfl
@[simp] theorem takeTransaction_rspIn : (takeTransaction s).rspIn = s.rspIn := rfl
@[simp] theorem takeTransaction_cmdOp : (takeTransaction s).cmdOp = s.cmdOp := rfl
@[simp] theorem takeTransaction_cmdSlot : (takeTransaction s).cmdSlot = s.cmdSlot := rfl
@[simp] theorem takeTransaction_idIn : (takeTransaction s).idIn = s.idIn := rfl
@[simp] theorem takeTransaction_lenIn : (takeTransaction s).lenIn = s.lenIn := rfl
@[simp] theorem takeTransaction_buf : (takeTransaction s).buf = s.buf := rfl
@[simp] theorem takeTransaction_stat : (takeTransaction s).stat = s.stat := rfl
@[simp] theorem takeTransaction_result : (takeTransaction s).result = s.result := rfl
@[simp] theorem takeTransaction_failval : (takeTransaction s).failval = s.failval := rfl
@[simp] theorem takeTransaction_idOut : (takeTransaction s).idOut = s.idOut := rfl
@[simp] theorem takeTransaction_lenOut : (takeTransaction s).lenOut = s.lenOut := rfl
@[simp] theorem takeTransaction_faultReg : (takeTransaction s).faultReg = s.faultReg := rfl
@[simp] theorem takeTransaction_trace : (takeTransaction s).trace = s.trace := rfl
@[simp] theorem takeTransaction_port : (takeTransaction s).port = s.port := rfl
@[simp] theorem takeTransaction_din : (takeTransaction s).din = s.din := rfl
@[simp] theorem takeTransaction_dout : (takeTransaction s).dout = s.dout := rfl
@[simp] theorem takeTransaction_seen : (takeTransaction s).seen = s.seen := rfl
@[simp] theorem takeTransaction_env : (takeTransaction s).env = { s.env with taken := s.env.taken + 1 } := rfl
@[simp] theorem takeTransaction_orphans : (takeTransaction s).orphans = s.orphans := rfl
@[simp] theorem takeTransaction_requester : (takeTransaction s).requester = s.requester := rfl
@[simp] theorem takeTransaction_softwareRsp : (takeTransaction s).softwareRsp = s.softwareRsp := rfl
@[simp] theorem takeTransaction_agenda : (takeTransaction s).agenda = s.agenda := rfl
@[simp] theorem takeTransaction_draws : (takeTransaction s).draws = s.draws := rfl
end takeTransactionFields

section storeTxbFields
variable (i : Fin 3) (b : Image) (s : State)
@[simp] theorem storeTxb_cfg : (storeTxb i b s).cfg = s.cfg := rfl
@[simp] theorem storeTxb_phase : (storeTxb i b s).phase = s.phase := rfl
@[simp] theorem storeTxb_await : (storeTxb i b s).await = s.await := rfl
@[simp] theorem storeTxb_rspIn : (storeTxb i b s).rspIn = s.rspIn := rfl
@[simp] theorem storeTxb_cmdOp : (storeTxb i b s).cmdOp = s.cmdOp := rfl
@[simp] theorem storeTxb_cmdSlot : (storeTxb i b s).cmdSlot = s.cmdSlot := rfl
@[simp] theorem storeTxb_idIn : (storeTxb i b s).idIn = s.idIn := rfl
@[simp] theorem storeTxb_lenIn : (storeTxb i b s).lenIn = s.lenIn := rfl
@[simp] theorem storeTxb_buf : (storeTxb i b s).buf = s.buf := rfl
@[simp] theorem storeTxb_stat : (storeTxb i b s).stat = s.stat := rfl
@[simp] theorem storeTxb_result : (storeTxb i b s).result = s.result := rfl
@[simp] theorem storeTxb_failval : (storeTxb i b s).failval = s.failval := rfl
@[simp] theorem storeTxb_idOut : (storeTxb i b s).idOut = s.idOut := rfl
@[simp] theorem storeTxb_lenOut : (storeTxb i b s).lenOut = s.lenOut := rfl
@[simp] theorem storeTxb_faultReg : (storeTxb i b s).faultReg = s.faultReg := rfl
@[simp] theorem storeTxb_trace : (storeTxb i b s).trace = s.trace := rfl
@[simp] theorem storeTxb_port : (storeTxb i b s).port = s.port := rfl
@[simp] theorem storeTxb_din : (storeTxb i b s).din = s.din := rfl
@[simp] theorem storeTxb_dout : (storeTxb i b s).dout = s.dout := rfl
@[simp] theorem storeTxb_seen : (storeTxb i b s).seen = s.seen := rfl
@[simp] theorem storeTxb_env : (storeTxb i b s).env = { s.env with txb := s.env.txb.set i b } := rfl
@[simp] theorem storeTxb_orphans : (storeTxb i b s).orphans = s.orphans := rfl
@[simp] theorem storeTxb_requester : (storeTxb i b s).requester = s.requester := rfl
@[simp] theorem storeTxb_softwareRsp : (storeTxb i b s).softwareRsp = s.softwareRsp := rfl
@[simp] theorem storeTxb_agenda : (storeTxb i b s).agenda = s.agenda := rfl
@[simp] theorem storeTxb_draws : (storeTxb i b s).draws = s.draws := rfl
end storeTxbFields

section storeRxbFields
variable (i : Fin 2) (b : Image) (s : State)
@[simp] theorem storeRxb_cfg : (storeRxb i b s).cfg = s.cfg := rfl
@[simp] theorem storeRxb_phase : (storeRxb i b s).phase = s.phase := rfl
@[simp] theorem storeRxb_await : (storeRxb i b s).await = s.await := rfl
@[simp] theorem storeRxb_rspIn : (storeRxb i b s).rspIn = s.rspIn := rfl
@[simp] theorem storeRxb_cmdOp : (storeRxb i b s).cmdOp = s.cmdOp := rfl
@[simp] theorem storeRxb_cmdSlot : (storeRxb i b s).cmdSlot = s.cmdSlot := rfl
@[simp] theorem storeRxb_idIn : (storeRxb i b s).idIn = s.idIn := rfl
@[simp] theorem storeRxb_lenIn : (storeRxb i b s).lenIn = s.lenIn := rfl
@[simp] theorem storeRxb_buf : (storeRxb i b s).buf = s.buf := rfl
@[simp] theorem storeRxb_stat : (storeRxb i b s).stat = s.stat := rfl
@[simp] theorem storeRxb_result : (storeRxb i b s).result = s.result := rfl
@[simp] theorem storeRxb_failval : (storeRxb i b s).failval = s.failval := rfl
@[simp] theorem storeRxb_idOut : (storeRxb i b s).idOut = s.idOut := rfl
@[simp] theorem storeRxb_lenOut : (storeRxb i b s).lenOut = s.lenOut := rfl
@[simp] theorem storeRxb_faultReg : (storeRxb i b s).faultReg = s.faultReg := rfl
@[simp] theorem storeRxb_trace : (storeRxb i b s).trace = s.trace := rfl
@[simp] theorem storeRxb_port : (storeRxb i b s).port = s.port := rfl
@[simp] theorem storeRxb_din : (storeRxb i b s).din = s.din := rfl
@[simp] theorem storeRxb_dout : (storeRxb i b s).dout = s.dout := rfl
@[simp] theorem storeRxb_seen : (storeRxb i b s).seen = s.seen := rfl
@[simp] theorem storeRxb_env : (storeRxb i b s).env = { s.env with rxb := s.env.rxb.set i b } := rfl
@[simp] theorem storeRxb_orphans : (storeRxb i b s).orphans = s.orphans := rfl
@[simp] theorem storeRxb_requester : (storeRxb i b s).requester = s.requester := rfl
@[simp] theorem storeRxb_softwareRsp : (storeRxb i b s).softwareRsp = s.softwareRsp := rfl
@[simp] theorem storeRxb_agenda : (storeRxb i b s).agenda = s.agenda := rfl
@[simp] theorem storeRxb_draws : (storeRxb i b s).draws = s.draws := rfl
end storeRxbFields

section setTxreqFields
variable (i : Fin 3) (v : Bool) (s : State)
@[simp] theorem setTxreq_cfg : (setTxreq i v s).cfg = s.cfg := rfl
@[simp] theorem setTxreq_phase : (setTxreq i v s).phase = s.phase := rfl
@[simp] theorem setTxreq_await : (setTxreq i v s).await = s.await := rfl
@[simp] theorem setTxreq_rspIn : (setTxreq i v s).rspIn = s.rspIn := rfl
@[simp] theorem setTxreq_cmdOp : (setTxreq i v s).cmdOp = s.cmdOp := rfl
@[simp] theorem setTxreq_cmdSlot : (setTxreq i v s).cmdSlot = s.cmdSlot := rfl
@[simp] theorem setTxreq_idIn : (setTxreq i v s).idIn = s.idIn := rfl
@[simp] theorem setTxreq_lenIn : (setTxreq i v s).lenIn = s.lenIn := rfl
@[simp] theorem setTxreq_buf : (setTxreq i v s).buf = s.buf := rfl
@[simp] theorem setTxreq_stat : (setTxreq i v s).stat = s.stat := rfl
@[simp] theorem setTxreq_result : (setTxreq i v s).result = s.result := rfl
@[simp] theorem setTxreq_failval : (setTxreq i v s).failval = s.failval := rfl
@[simp] theorem setTxreq_idOut : (setTxreq i v s).idOut = s.idOut := rfl
@[simp] theorem setTxreq_lenOut : (setTxreq i v s).lenOut = s.lenOut := rfl
@[simp] theorem setTxreq_faultReg : (setTxreq i v s).faultReg = s.faultReg := rfl
@[simp] theorem setTxreq_trace : (setTxreq i v s).trace = s.trace := rfl
@[simp] theorem setTxreq_port : (setTxreq i v s).port = s.port := rfl
@[simp] theorem setTxreq_din : (setTxreq i v s).din = s.din := rfl
@[simp] theorem setTxreq_dout : (setTxreq i v s).dout = s.dout := rfl
@[simp] theorem setTxreq_seen : (setTxreq i v s).seen = s.seen := rfl
@[simp] theorem setTxreq_env : (setTxreq i v s).env = { s.env with txreq := s.env.txreq.set i v } := rfl
@[simp] theorem setTxreq_orphans : (setTxreq i v s).orphans = s.orphans := rfl
@[simp] theorem setTxreq_requester : (setTxreq i v s).requester = s.requester := rfl
@[simp] theorem setTxreq_softwareRsp : (setTxreq i v s).softwareRsp = s.softwareRsp := rfl
@[simp] theorem setTxreq_agenda : (setTxreq i v s).agenda = s.agenda := rfl
@[simp] theorem setTxreq_draws : (setTxreq i v s).draws = s.draws := rfl
end setTxreqFields

section storeResponseFields
variable (r : Response) (s : State)
@[simp] theorem storeResponse_cfg : (storeResponse r s).cfg = s.cfg := rfl
@[simp] theorem storeResponse_phase : (storeResponse r s).phase = s.phase := rfl
@[simp] theorem storeResponse_await : (storeResponse r s).await = s.await := rfl
@[simp] theorem storeResponse_rspIn : (storeResponse r s).rspIn = some r := rfl
@[simp] theorem storeResponse_cmdOp : (storeResponse r s).cmdOp = s.cmdOp := rfl
@[simp] theorem storeResponse_cmdSlot : (storeResponse r s).cmdSlot = s.cmdSlot := rfl
@[simp] theorem storeResponse_idIn : (storeResponse r s).idIn = s.idIn := rfl
@[simp] theorem storeResponse_lenIn : (storeResponse r s).lenIn = s.lenIn := rfl
@[simp] theorem storeResponse_buf : (storeResponse r s).buf = s.buf := rfl
@[simp] theorem storeResponse_stat : (storeResponse r s).stat = s.stat := rfl
@[simp] theorem storeResponse_result : (storeResponse r s).result = s.result := rfl
@[simp] theorem storeResponse_failval : (storeResponse r s).failval = s.failval := rfl
@[simp] theorem storeResponse_idOut : (storeResponse r s).idOut = s.idOut := rfl
@[simp] theorem storeResponse_lenOut : (storeResponse r s).lenOut = s.lenOut := rfl
@[simp] theorem storeResponse_faultReg : (storeResponse r s).faultReg = s.faultReg := rfl
@[simp] theorem storeResponse_trace : (storeResponse r s).trace = s.trace := rfl
@[simp] theorem storeResponse_port : (storeResponse r s).port = none := rfl
@[simp] theorem storeResponse_din : (storeResponse r s).din = s.din := rfl
@[simp] theorem storeResponse_dout : (storeResponse r s).dout = s.dout := rfl
@[simp] theorem storeResponse_seen : (storeResponse r s).seen = s.seen := rfl
@[simp] theorem storeResponse_env : (storeResponse r s).env = s.env := rfl
@[simp] theorem storeResponse_orphans : (storeResponse r s).orphans = s.orphans := rfl
@[simp] theorem storeResponse_requester : (storeResponse r s).requester = s.requester := rfl
@[simp] theorem storeResponse_softwareRsp : (storeResponse r s).softwareRsp = s.softwareRsp := rfl
@[simp] theorem storeResponse_agenda : (storeResponse r s).agenda = s.agenda := rfl
@[simp] theorem storeResponse_draws : (storeResponse r s).draws = s.draws := rfl
end storeResponseFields

section answerSoftwareFields
variable (r : Response) (s : State)
@[simp] theorem answerSoftware_cfg : (answerSoftware r s).cfg = s.cfg := rfl
@[simp] theorem answerSoftware_phase : (answerSoftware r s).phase = s.phase := rfl
@[simp] theorem answerSoftware_await : (answerSoftware r s).await = s.await := rfl
@[simp] theorem answerSoftware_rspIn : (answerSoftware r s).rspIn = s.rspIn := rfl
@[simp] theorem answerSoftware_cmdOp : (answerSoftware r s).cmdOp = s.cmdOp := rfl
@[simp] theorem answerSoftware_cmdSlot : (answerSoftware r s).cmdSlot = s.cmdSlot := rfl
@[simp] theorem answerSoftware_idIn : (answerSoftware r s).idIn = s.idIn := rfl
@[simp] theorem answerSoftware_lenIn : (answerSoftware r s).lenIn = s.lenIn := rfl
@[simp] theorem answerSoftware_buf : (answerSoftware r s).buf = s.buf := rfl
@[simp] theorem answerSoftware_stat : (answerSoftware r s).stat = s.stat := rfl
@[simp] theorem answerSoftware_result : (answerSoftware r s).result = s.result := rfl
@[simp] theorem answerSoftware_failval : (answerSoftware r s).failval = s.failval := rfl
@[simp] theorem answerSoftware_idOut : (answerSoftware r s).idOut = s.idOut := rfl
@[simp] theorem answerSoftware_lenOut : (answerSoftware r s).lenOut = s.lenOut := rfl
@[simp] theorem answerSoftware_faultReg : (answerSoftware r s).faultReg = s.faultReg := rfl
@[simp] theorem answerSoftware_trace : (answerSoftware r s).trace = s.trace := rfl
@[simp] theorem answerSoftware_port : (answerSoftware r s).port = s.port := rfl
@[simp] theorem answerSoftware_din : (answerSoftware r s).din = s.din := rfl
@[simp] theorem answerSoftware_dout : (answerSoftware r s).dout = s.dout := rfl
@[simp] theorem answerSoftware_seen : (answerSoftware r s).seen = s.seen := rfl
@[simp] theorem answerSoftware_env : (answerSoftware r s).env = s.env := rfl
@[simp] theorem answerSoftware_orphans : (answerSoftware r s).orphans = s.orphans := rfl
@[simp] theorem answerSoftware_requester : (answerSoftware r s).requester = s.requester := rfl
@[simp] theorem answerSoftware_softwareRsp : (answerSoftware r s).softwareRsp = some r := rfl
@[simp] theorem answerSoftware_agenda : (answerSoftware r s).agenda = s.agenda := rfl
@[simp] theorem answerSoftware_draws : (answerSoftware r s).draws = s.draws := rfl
end answerSoftwareFields

section storeFailvalFields
variable (f : FailureValue) (s : State)
@[simp] theorem storeFailval_cfg : (storeFailval f s).cfg = s.cfg := rfl
@[simp] theorem storeFailval_phase : (storeFailval f s).phase = s.phase := rfl
@[simp] theorem storeFailval_await : (storeFailval f s).await = s.await := rfl
@[simp] theorem storeFailval_rspIn : (storeFailval f s).rspIn = s.rspIn := rfl
@[simp] theorem storeFailval_cmdOp : (storeFailval f s).cmdOp = s.cmdOp := rfl
@[simp] theorem storeFailval_cmdSlot : (storeFailval f s).cmdSlot = s.cmdSlot := rfl
@[simp] theorem storeFailval_idIn : (storeFailval f s).idIn = s.idIn := rfl
@[simp] theorem storeFailval_lenIn : (storeFailval f s).lenIn = s.lenIn := rfl
@[simp] theorem storeFailval_buf : (storeFailval f s).buf = s.buf := rfl
@[simp] theorem storeFailval_stat : (storeFailval f s).stat = s.stat := rfl
@[simp] theorem storeFailval_result : (storeFailval f s).result = s.result := rfl
@[simp] theorem storeFailval_failval : (storeFailval f s).failval = some f := rfl
@[simp] theorem storeFailval_idOut : (storeFailval f s).idOut = s.idOut := rfl
@[simp] theorem storeFailval_lenOut : (storeFailval f s).lenOut = s.lenOut := rfl
@[simp] theorem storeFailval_faultReg : (storeFailval f s).faultReg = s.faultReg := rfl
@[simp] theorem storeFailval_trace : (storeFailval f s).trace = s.trace := rfl
@[simp] theorem storeFailval_port : (storeFailval f s).port = s.port := rfl
@[simp] theorem storeFailval_din : (storeFailval f s).din = s.din := rfl
@[simp] theorem storeFailval_dout : (storeFailval f s).dout = s.dout := rfl
@[simp] theorem storeFailval_seen : (storeFailval f s).seen = s.seen := rfl
@[simp] theorem storeFailval_env : (storeFailval f s).env = s.env := rfl
@[simp] theorem storeFailval_orphans : (storeFailval f s).orphans = s.orphans := rfl
@[simp] theorem storeFailval_requester : (storeFailval f s).requester = s.requester := rfl
@[simp] theorem storeFailval_softwareRsp : (storeFailval f s).softwareRsp = s.softwareRsp := rfl
@[simp] theorem storeFailval_agenda : (storeFailval f s).agenda = s.agenda := rfl
@[simp] theorem storeFailval_draws : (storeFailval f s).draws = s.draws := rfl
end storeFailvalFields

section keepTurnsFields
variable (rest : List Turn) (s : State)
@[simp] theorem keepTurns_cfg : (keepTurns rest s).cfg = s.cfg := rfl
@[simp] theorem keepTurns_phase : (keepTurns rest s).phase = s.phase := rfl
@[simp] theorem keepTurns_await : (keepTurns rest s).await = s.await := rfl
@[simp] theorem keepTurns_rspIn : (keepTurns rest s).rspIn = s.rspIn := rfl
@[simp] theorem keepTurns_cmdOp : (keepTurns rest s).cmdOp = s.cmdOp := rfl
@[simp] theorem keepTurns_cmdSlot : (keepTurns rest s).cmdSlot = s.cmdSlot := rfl
@[simp] theorem keepTurns_idIn : (keepTurns rest s).idIn = s.idIn := rfl
@[simp] theorem keepTurns_lenIn : (keepTurns rest s).lenIn = s.lenIn := rfl
@[simp] theorem keepTurns_buf : (keepTurns rest s).buf = s.buf := rfl
@[simp] theorem keepTurns_stat : (keepTurns rest s).stat = s.stat := rfl
@[simp] theorem keepTurns_result : (keepTurns rest s).result = s.result := rfl
@[simp] theorem keepTurns_failval : (keepTurns rest s).failval = s.failval := rfl
@[simp] theorem keepTurns_idOut : (keepTurns rest s).idOut = s.idOut := rfl
@[simp] theorem keepTurns_lenOut : (keepTurns rest s).lenOut = s.lenOut := rfl
@[simp] theorem keepTurns_faultReg : (keepTurns rest s).faultReg = s.faultReg := rfl
@[simp] theorem keepTurns_trace : (keepTurns rest s).trace = s.trace := rfl
@[simp] theorem keepTurns_port : (keepTurns rest s).port = s.port := rfl
@[simp] theorem keepTurns_din : (keepTurns rest s).din = s.din := rfl
@[simp] theorem keepTurns_dout : (keepTurns rest s).dout = s.dout := rfl
@[simp] theorem keepTurns_seen : (keepTurns rest s).seen = s.seen := rfl
@[simp] theorem keepTurns_env : (keepTurns rest s).env = s.env := rfl
@[simp] theorem keepTurns_orphans : (keepTurns rest s).orphans = s.orphans := rfl
@[simp] theorem keepTurns_requester : (keepTurns rest s).requester = s.requester := rfl
@[simp] theorem keepTurns_softwareRsp : (keepTurns rest s).softwareRsp = s.softwareRsp := rfl
@[simp] theorem keepTurns_agenda : (keepTurns rest s).agenda = rest := rfl
@[simp] theorem keepTurns_draws : (keepTurns rest s).draws = s.draws := rfl
end keepTurnsFields

section serveForFields
variable (who : Requester) (s : State)
@[simp] theorem serveFor_cfg : (serveFor who s).cfg = s.cfg := rfl
@[simp] theorem serveFor_phase : (serveFor who s).phase = s.phase := rfl
@[simp] theorem serveFor_await : (serveFor who s).await = s.await := rfl
@[simp] theorem serveFor_rspIn : (serveFor who s).rspIn = s.rspIn := rfl
@[simp] theorem serveFor_cmdOp : (serveFor who s).cmdOp = s.cmdOp := rfl
@[simp] theorem serveFor_cmdSlot : (serveFor who s).cmdSlot = s.cmdSlot := rfl
@[simp] theorem serveFor_idIn : (serveFor who s).idIn = s.idIn := rfl
@[simp] theorem serveFor_lenIn : (serveFor who s).lenIn = s.lenIn := rfl
@[simp] theorem serveFor_buf : (serveFor who s).buf = s.buf := rfl
@[simp] theorem serveFor_stat : (serveFor who s).stat = s.stat := rfl
@[simp] theorem serveFor_result : (serveFor who s).result = s.result := rfl
@[simp] theorem serveFor_failval : (serveFor who s).failval = s.failval := rfl
@[simp] theorem serveFor_idOut : (serveFor who s).idOut = s.idOut := rfl
@[simp] theorem serveFor_lenOut : (serveFor who s).lenOut = s.lenOut := rfl
@[simp] theorem serveFor_faultReg : (serveFor who s).faultReg = s.faultReg := rfl
@[simp] theorem serveFor_trace : (serveFor who s).trace = s.trace := rfl
@[simp] theorem serveFor_port : (serveFor who s).port = s.port := rfl
@[simp] theorem serveFor_din : (serveFor who s).din = s.din := rfl
@[simp] theorem serveFor_dout : (serveFor who s).dout = s.dout := rfl
@[simp] theorem serveFor_seen : (serveFor who s).seen = s.seen := rfl
@[simp] theorem serveFor_env : (serveFor who s).env = s.env := rfl
@[simp] theorem serveFor_orphans : (serveFor who s).orphans = s.orphans := rfl
@[simp] theorem serveFor_requester : (serveFor who s).requester = who := rfl
@[simp] theorem serveFor_softwareRsp : (serveFor who s).softwareRsp = s.softwareRsp := rfl
@[simp] theorem serveFor_agenda : (serveFor who s).agenda = s.agenda := rfl
@[simp] theorem serveFor_draws : (serveFor who s).draws = s.draws := rfl
end serveForFields

section dropOrphanFields
variable (n : Nat) (s : State)
@[simp] theorem dropOrphan_cfg : (dropOrphan n s).cfg = s.cfg := rfl
@[simp] theorem dropOrphan_phase : (dropOrphan n s).phase = s.phase := rfl
@[simp] theorem dropOrphan_await : (dropOrphan n s).await = s.await := rfl
@[simp] theorem dropOrphan_rspIn : (dropOrphan n s).rspIn = s.rspIn := rfl
@[simp] theorem dropOrphan_cmdOp : (dropOrphan n s).cmdOp = s.cmdOp := rfl
@[simp] theorem dropOrphan_cmdSlot : (dropOrphan n s).cmdSlot = s.cmdSlot := rfl
@[simp] theorem dropOrphan_idIn : (dropOrphan n s).idIn = s.idIn := rfl
@[simp] theorem dropOrphan_lenIn : (dropOrphan n s).lenIn = s.lenIn := rfl
@[simp] theorem dropOrphan_buf : (dropOrphan n s).buf = s.buf := rfl
@[simp] theorem dropOrphan_stat : (dropOrphan n s).stat = s.stat := rfl
@[simp] theorem dropOrphan_result : (dropOrphan n s).result = s.result := rfl
@[simp] theorem dropOrphan_failval : (dropOrphan n s).failval = s.failval := rfl
@[simp] theorem dropOrphan_idOut : (dropOrphan n s).idOut = s.idOut := rfl
@[simp] theorem dropOrphan_lenOut : (dropOrphan n s).lenOut = s.lenOut := rfl
@[simp] theorem dropOrphan_faultReg : (dropOrphan n s).faultReg = s.faultReg := rfl
@[simp] theorem dropOrphan_trace : (dropOrphan n s).trace = s.trace := rfl
@[simp] theorem dropOrphan_port : (dropOrphan n s).port = s.port := rfl
@[simp] theorem dropOrphan_din : (dropOrphan n s).din = s.din := rfl
@[simp] theorem dropOrphan_dout : (dropOrphan n s).dout = s.dout := rfl
@[simp] theorem dropOrphan_seen : (dropOrphan n s).seen = s.seen := rfl
@[simp] theorem dropOrphan_env : (dropOrphan n s).env = s.env := rfl
@[simp] theorem dropOrphan_orphans : (dropOrphan n s).orphans = s.orphans.eraseIdx n := rfl
@[simp] theorem dropOrphan_requester : (dropOrphan n s).requester = s.requester := rfl
@[simp] theorem dropOrphan_softwareRsp : (dropOrphan n s).softwareRsp = s.softwareRsp := rfl
@[simp] theorem dropOrphan_agenda : (dropOrphan n s).agenda = s.agenda := rfl
@[simp] theorem dropOrphan_draws : (dropOrphan n s).draws = s.draws := rfl
end dropOrphanFields

section provideDinFields
variable (bytes : List Byte) (s : State)
@[simp] theorem provideDin_cfg : (provideDin bytes s).cfg = s.cfg := rfl
@[simp] theorem provideDin_phase : (provideDin bytes s).phase = s.phase := rfl
@[simp] theorem provideDin_await : (provideDin bytes s).await = s.await := rfl
@[simp] theorem provideDin_rspIn : (provideDin bytes s).rspIn = s.rspIn := rfl
@[simp] theorem provideDin_cmdOp : (provideDin bytes s).cmdOp = s.cmdOp := rfl
@[simp] theorem provideDin_cmdSlot : (provideDin bytes s).cmdSlot = s.cmdSlot := rfl
@[simp] theorem provideDin_idIn : (provideDin bytes s).idIn = s.idIn := rfl
@[simp] theorem provideDin_lenIn : (provideDin bytes s).lenIn = s.lenIn := rfl
@[simp] theorem provideDin_buf : (provideDin bytes s).buf = s.buf := rfl
@[simp] theorem provideDin_stat : (provideDin bytes s).stat = s.stat := rfl
@[simp] theorem provideDin_result : (provideDin bytes s).result = s.result := rfl
@[simp] theorem provideDin_failval : (provideDin bytes s).failval = s.failval := rfl
@[simp] theorem provideDin_idOut : (provideDin bytes s).idOut = s.idOut := rfl
@[simp] theorem provideDin_lenOut : (provideDin bytes s).lenOut = s.lenOut := rfl
@[simp] theorem provideDin_faultReg : (provideDin bytes s).faultReg = s.faultReg := rfl
@[simp] theorem provideDin_trace : (provideDin bytes s).trace = s.trace := rfl
@[simp] theorem provideDin_port : (provideDin bytes s).port = s.port := rfl
@[simp] theorem provideDin_din : (provideDin bytes s).din = bytes := rfl
@[simp] theorem provideDin_dout : (provideDin bytes s).dout = s.dout := rfl
@[simp] theorem provideDin_seen : (provideDin bytes s).seen = s.seen := rfl
@[simp] theorem provideDin_env : (provideDin bytes s).env = s.env := rfl
@[simp] theorem provideDin_orphans : (provideDin bytes s).orphans = s.orphans := rfl
@[simp] theorem provideDin_requester : (provideDin bytes s).requester = s.requester := rfl
@[simp] theorem provideDin_softwareRsp : (provideDin bytes s).softwareRsp = s.softwareRsp := rfl
@[simp] theorem provideDin_agenda : (provideDin bytes s).agenda = s.agenda := rfl
@[simp] theorem provideDin_draws : (provideDin bytes s).draws = s.draws := rfl
end provideDinFields

section provideDoutFields
variable (bytes : Payload) (s : State)
@[simp] theorem provideDout_cfg : (provideDout bytes s).cfg = s.cfg := rfl
@[simp] theorem provideDout_phase : (provideDout bytes s).phase = s.phase := rfl
@[simp] theorem provideDout_await : (provideDout bytes s).await = s.await := rfl
@[simp] theorem provideDout_rspIn : (provideDout bytes s).rspIn = s.rspIn := rfl
@[simp] theorem provideDout_cmdOp : (provideDout bytes s).cmdOp = s.cmdOp := rfl
@[simp] theorem provideDout_cmdSlot : (provideDout bytes s).cmdSlot = s.cmdSlot := rfl
@[simp] theorem provideDout_idIn : (provideDout bytes s).idIn = s.idIn := rfl
@[simp] theorem provideDout_lenIn : (provideDout bytes s).lenIn = s.lenIn := rfl
@[simp] theorem provideDout_buf : (provideDout bytes s).buf = s.buf := rfl
@[simp] theorem provideDout_stat : (provideDout bytes s).stat = s.stat := rfl
@[simp] theorem provideDout_result : (provideDout bytes s).result = s.result := rfl
@[simp] theorem provideDout_failval : (provideDout bytes s).failval = s.failval := rfl
@[simp] theorem provideDout_idOut : (provideDout bytes s).idOut = s.idOut := rfl
@[simp] theorem provideDout_lenOut : (provideDout bytes s).lenOut = s.lenOut := rfl
@[simp] theorem provideDout_faultReg : (provideDout bytes s).faultReg = s.faultReg := rfl
@[simp] theorem provideDout_trace : (provideDout bytes s).trace = s.trace := rfl
@[simp] theorem provideDout_port : (provideDout bytes s).port = s.port := rfl
@[simp] theorem provideDout_din : (provideDout bytes s).din = s.din := rfl
@[simp] theorem provideDout_dout : (provideDout bytes s).dout = bytes := rfl
@[simp] theorem provideDout_seen : (provideDout bytes s).seen = s.seen := rfl
@[simp] theorem provideDout_env : (provideDout bytes s).env = s.env := rfl
@[simp] theorem provideDout_orphans : (provideDout bytes s).orphans = s.orphans := rfl
@[simp] theorem provideDout_requester : (provideDout bytes s).requester = s.requester := rfl
@[simp] theorem provideDout_softwareRsp : (provideDout bytes s).softwareRsp = s.softwareRsp := rfl
@[simp] theorem provideDout_agenda : (provideDout bytes s).agenda = s.agenda := rfl
@[simp] theorem provideDout_draws : (provideDout bytes s).draws = s.draws := rfl
end provideDoutFields

section recordSeenFields
variable (v : Seen) (s : State)
@[simp] theorem recordSeen_cfg : (recordSeen v s).cfg = s.cfg := rfl
@[simp] theorem recordSeen_phase : (recordSeen v s).phase = s.phase := rfl
@[simp] theorem recordSeen_await : (recordSeen v s).await = s.await := rfl
@[simp] theorem recordSeen_rspIn : (recordSeen v s).rspIn = s.rspIn := rfl
@[simp] theorem recordSeen_cmdOp : (recordSeen v s).cmdOp = s.cmdOp := rfl
@[simp] theorem recordSeen_cmdSlot : (recordSeen v s).cmdSlot = s.cmdSlot := rfl
@[simp] theorem recordSeen_idIn : (recordSeen v s).idIn = s.idIn := rfl
@[simp] theorem recordSeen_lenIn : (recordSeen v s).lenIn = s.lenIn := rfl
@[simp] theorem recordSeen_buf : (recordSeen v s).buf = s.buf := rfl
@[simp] theorem recordSeen_stat : (recordSeen v s).stat = s.stat := rfl
@[simp] theorem recordSeen_result : (recordSeen v s).result = s.result := rfl
@[simp] theorem recordSeen_failval : (recordSeen v s).failval = s.failval := rfl
@[simp] theorem recordSeen_idOut : (recordSeen v s).idOut = s.idOut := rfl
@[simp] theorem recordSeen_lenOut : (recordSeen v s).lenOut = s.lenOut := rfl
@[simp] theorem recordSeen_faultReg : (recordSeen v s).faultReg = s.faultReg := rfl
@[simp] theorem recordSeen_trace : (recordSeen v s).trace = s.trace := rfl
@[simp] theorem recordSeen_port : (recordSeen v s).port = s.port := rfl
@[simp] theorem recordSeen_din : (recordSeen v s).din = s.din := rfl
@[simp] theorem recordSeen_dout : (recordSeen v s).dout = s.dout := rfl
@[simp] theorem recordSeen_seen : (recordSeen v s).seen = s.seen ++ [v] := rfl
@[simp] theorem recordSeen_env : (recordSeen v s).env = s.env := rfl
@[simp] theorem recordSeen_orphans : (recordSeen v s).orphans = s.orphans := rfl
@[simp] theorem recordSeen_requester : (recordSeen v s).requester = s.requester := rfl
@[simp] theorem recordSeen_softwareRsp : (recordSeen v s).softwareRsp = s.softwareRsp := rfl
@[simp] theorem recordSeen_agenda : (recordSeen v s).agenda = s.agenda := rfl
@[simp] theorem recordSeen_draws : (recordSeen v s).draws = s.draws := rfl
end recordSeenFields

section loadAcknowledgedFields
variable (s : State)
@[simp] theorem loadAcknowledged_cfg : (loadAcknowledged s).cfg = s.cfg := rfl
@[simp] theorem loadAcknowledged_phase : (loadAcknowledged s).phase = Phase.txRts := rfl
@[simp] theorem loadAcknowledged_await : (loadAcknowledged s).await = s.await := rfl
@[simp] theorem loadAcknowledged_rspIn : (loadAcknowledged s).rspIn = s.rspIn := rfl
@[simp] theorem loadAcknowledged_cmdOp : (loadAcknowledged s).cmdOp = s.cmdOp := rfl
@[simp] theorem loadAcknowledged_cmdSlot : (loadAcknowledged s).cmdSlot = s.cmdSlot := rfl
@[simp] theorem loadAcknowledged_idIn : (loadAcknowledged s).idIn = s.idIn := rfl
@[simp] theorem loadAcknowledged_lenIn : (loadAcknowledged s).lenIn = s.lenIn := rfl
@[simp] theorem loadAcknowledged_buf : (loadAcknowledged s).buf = s.buf := rfl
@[simp] theorem loadAcknowledged_stat : (loadAcknowledged s).stat = s.stat := rfl
@[simp] theorem loadAcknowledged_result : (loadAcknowledged s).result = s.result := rfl
@[simp] theorem loadAcknowledged_failval : (loadAcknowledged s).failval = s.failval := rfl
@[simp] theorem loadAcknowledged_idOut : (loadAcknowledged s).idOut = s.idOut := rfl
@[simp] theorem loadAcknowledged_lenOut : (loadAcknowledged s).lenOut = s.lenOut := rfl
@[simp] theorem loadAcknowledged_faultReg : (loadAcknowledged s).faultReg = s.faultReg := rfl
@[simp] theorem loadAcknowledged_trace : (loadAcknowledged s).trace = s.trace := rfl
@[simp] theorem loadAcknowledged_port : (loadAcknowledged s).port = s.port := rfl
@[simp] theorem loadAcknowledged_din : (loadAcknowledged s).din = s.din := rfl
@[simp] theorem loadAcknowledged_dout : (loadAcknowledged s).dout = s.dout := rfl
@[simp] theorem loadAcknowledged_seen : (loadAcknowledged s).seen = s.seen := rfl
@[simp] theorem loadAcknowledged_env : (loadAcknowledged s).env = s.env := rfl
@[simp] theorem loadAcknowledged_orphans : (loadAcknowledged s).orphans = s.orphans := rfl
@[simp] theorem loadAcknowledged_requester : (loadAcknowledged s).requester = s.requester := rfl
@[simp] theorem loadAcknowledged_softwareRsp : (loadAcknowledged s).softwareRsp = s.softwareRsp := rfl
@[simp] theorem loadAcknowledged_agenda : (loadAcknowledged s).agenda = s.agenda := rfl
@[simp] theorem loadAcknowledged_draws : (loadAcknowledged s).draws = s.draws := rfl
end loadAcknowledgedFields

section storeStatFields
variable (v : Byte) (s : State)
@[simp] theorem storeStat_cfg : (storeStat v s).cfg = s.cfg := rfl
@[simp] theorem storeStat_phase : (storeStat v s).phase = s.phase := rfl
@[simp] theorem storeStat_await : (storeStat v s).await = s.await := rfl
@[simp] theorem storeStat_rspIn : (storeStat v s).rspIn = s.rspIn := rfl
@[simp] theorem storeStat_cmdOp : (storeStat v s).cmdOp = s.cmdOp := rfl
@[simp] theorem storeStat_cmdSlot : (storeStat v s).cmdSlot = s.cmdSlot := rfl
@[simp] theorem storeStat_idIn : (storeStat v s).idIn = s.idIn := rfl
@[simp] theorem storeStat_lenIn : (storeStat v s).lenIn = s.lenIn := rfl
@[simp] theorem storeStat_buf : (storeStat v s).buf = s.buf := rfl
@[simp] theorem storeStat_stat : (storeStat v s).stat = some v := rfl
@[simp] theorem storeStat_result : (storeStat v s).result = s.result := rfl
@[simp] theorem storeStat_failval : (storeStat v s).failval = s.failval := rfl
@[simp] theorem storeStat_idOut : (storeStat v s).idOut = s.idOut := rfl
@[simp] theorem storeStat_lenOut : (storeStat v s).lenOut = s.lenOut := rfl
@[simp] theorem storeStat_faultReg : (storeStat v s).faultReg = s.faultReg := rfl
@[simp] theorem storeStat_trace : (storeStat v s).trace = s.trace := rfl
@[simp] theorem storeStat_port : (storeStat v s).port = s.port := rfl
@[simp] theorem storeStat_din : (storeStat v s).din = s.din := rfl
@[simp] theorem storeStat_dout : (storeStat v s).dout = s.dout := rfl
@[simp] theorem storeStat_seen : (storeStat v s).seen = s.seen := rfl
@[simp] theorem storeStat_env : (storeStat v s).env = s.env := rfl
@[simp] theorem storeStat_orphans : (storeStat v s).orphans = s.orphans := rfl
@[simp] theorem storeStat_requester : (storeStat v s).requester = s.requester := rfl
@[simp] theorem storeStat_softwareRsp : (storeStat v s).softwareRsp = s.softwareRsp := rfl
@[simp] theorem storeStat_agenda : (storeStat v s).agenda = s.agenda := rfl
@[simp] theorem storeStat_draws : (storeStat v s).draws = s.draws := rfl
end storeStatFields

section finishFields
variable (res : BitVec 1) (s : State)
@[simp] theorem finish_cfg : (finish res s).cfg = s.cfg := rfl
@[simp] theorem finish_phase : (finish res s).phase = Phase.idle := rfl
@[simp] theorem finish_await : (finish res s).await = s.await := rfl
@[simp] theorem finish_rspIn : (finish res s).rspIn = s.rspIn := rfl
@[simp] theorem finish_cmdOp : (finish res s).cmdOp = s.cmdOp := rfl
@[simp] theorem finish_cmdSlot : (finish res s).cmdSlot = s.cmdSlot := rfl
@[simp] theorem finish_idIn : (finish res s).idIn = none := rfl
@[simp] theorem finish_lenIn : (finish res s).lenIn = none := rfl
@[simp] theorem finish_buf : (finish res s).buf = s.buf := rfl
@[simp] theorem finish_stat : (finish res s).stat = none := rfl
@[simp] theorem finish_result : (finish res s).result = some res := rfl
@[simp] theorem finish_failval : (finish res s).failval = s.failval := rfl
@[simp] theorem finish_idOut : (finish res s).idOut = s.idOut := rfl
@[simp] theorem finish_lenOut : (finish res s).lenOut = s.lenOut := rfl
@[simp] theorem finish_faultReg : (finish res s).faultReg = s.faultReg := rfl
@[simp] theorem finish_trace : (finish res s).trace = s.trace ++ [.done res] := rfl
@[simp] theorem finish_port : (finish res s).port = s.port := rfl
@[simp] theorem finish_din : (finish res s).din = s.din := rfl
@[simp] theorem finish_dout : (finish res s).dout = s.dout := rfl
@[simp] theorem finish_seen : (finish res s).seen = s.seen := rfl
@[simp] theorem finish_env : (finish res s).env = s.env := rfl
@[simp] theorem finish_orphans : (finish res s).orphans = s.orphans := rfl
@[simp] theorem finish_requester : (finish res s).requester = s.requester := rfl
@[simp] theorem finish_softwareRsp : (finish res s).softwareRsp = s.softwareRsp := rfl
@[simp] theorem finish_agenda : (finish res s).agenda = s.agenda := rfl
@[simp] theorem finish_draws : (finish res s).draws = s.draws := rfl
end finishFields

section failReceiveOutputsFields
variable (s : State)
@[simp] theorem failReceiveOutputs_cfg : (failReceiveOutputs s).cfg = s.cfg := rfl
@[simp] theorem failReceiveOutputs_phase : (failReceiveOutputs s).phase = s.phase := rfl
@[simp] theorem failReceiveOutputs_await : (failReceiveOutputs s).await = s.await := rfl
@[simp] theorem failReceiveOutputs_rspIn : (failReceiveOutputs s).rspIn = s.rspIn := rfl
@[simp] theorem failReceiveOutputs_cmdOp : (failReceiveOutputs s).cmdOp = s.cmdOp := rfl
@[simp] theorem failReceiveOutputs_cmdSlot : (failReceiveOutputs s).cmdSlot = s.cmdSlot := rfl
@[simp] theorem failReceiveOutputs_idIn : (failReceiveOutputs s).idIn = s.idIn := rfl
@[simp] theorem failReceiveOutputs_lenIn : (failReceiveOutputs s).lenIn = s.lenIn := rfl
@[simp] theorem failReceiveOutputs_buf : (failReceiveOutputs s).buf = s.buf := rfl
@[simp] theorem failReceiveOutputs_stat : (failReceiveOutputs s).stat = s.stat := rfl
@[simp] theorem failReceiveOutputs_result : (failReceiveOutputs s).result = s.result := rfl
@[simp] theorem failReceiveOutputs_failval : (failReceiveOutputs s).failval = s.failval := rfl
@[simp] theorem failReceiveOutputs_idOut : (failReceiveOutputs s).idOut = none := rfl
@[simp] theorem failReceiveOutputs_lenOut : (failReceiveOutputs s).lenOut = none := rfl
@[simp] theorem failReceiveOutputs_faultReg : (failReceiveOutputs s).faultReg = s.faultReg := rfl
@[simp] theorem failReceiveOutputs_trace : (failReceiveOutputs s).trace = s.trace := rfl
@[simp] theorem failReceiveOutputs_port : (failReceiveOutputs s).port = s.port := rfl
@[simp] theorem failReceiveOutputs_din : (failReceiveOutputs s).din = s.din := rfl
@[simp] theorem failReceiveOutputs_dout : (failReceiveOutputs s).dout = nextDraws s 8 := rfl
@[simp] theorem failReceiveOutputs_seen : (failReceiveOutputs s).seen = s.seen := rfl
@[simp] theorem failReceiveOutputs_env : (failReceiveOutputs s).env = s.env := rfl
@[simp] theorem failReceiveOutputs_orphans : (failReceiveOutputs s).orphans = s.orphans := rfl
@[simp] theorem failReceiveOutputs_requester : (failReceiveOutputs s).requester = s.requester := rfl
@[simp] theorem failReceiveOutputs_softwareRsp : (failReceiveOutputs s).softwareRsp = s.softwareRsp := rfl
@[simp] theorem failReceiveOutputs_agenda : (failReceiveOutputs s).agenda = s.agenda := rfl
@[simp] theorem failReceiveOutputs_draws : (failReceiveOutputs s).draws = s.draws + 8 := rfl
end failReceiveOutputsFields

section latchFields
variable (op : BitVec 1) (slot : BitVec 2) (s : State)
@[simp] theorem latch_cfg : (latch op slot s).cfg = s.cfg := rfl
@[simp] theorem latch_phase : (latch op slot s).phase = s.phase := rfl
@[simp] theorem latch_await : (latch op slot s).await = false := rfl
@[simp] theorem latch_rspIn : (latch op slot s).rspIn = none := rfl
@[simp] theorem latch_cmdOp : (latch op slot s).cmdOp = some op := rfl
@[simp] theorem latch_cmdSlot : (latch op slot s).cmdSlot = some slot := rfl
@[simp] theorem latch_idIn : (latch op slot s).idIn = s.idIn := rfl
@[simp] theorem latch_lenIn : (latch op slot s).lenIn = s.lenIn := rfl
@[simp] theorem latch_buf : (latch op slot s).buf = nextDraws s 13 := rfl
@[simp] theorem latch_stat : (latch op slot s).stat = none := rfl
@[simp] theorem latch_result : (latch op slot s).result = none := rfl
@[simp] theorem latch_failval : (latch op slot s).failval = none := rfl
@[simp] theorem latch_idOut : (latch op slot s).idOut = none := rfl
@[simp] theorem latch_lenOut : (latch op slot s).lenOut = none := rfl
@[simp] theorem latch_faultReg : (latch op slot s).faultReg = s.faultReg := rfl
@[simp] theorem latch_trace : (latch op slot s).trace = s.trace := rfl
@[simp] theorem latch_port : (latch op slot s).port = s.port := rfl
@[simp] theorem latch_din : (latch op slot s).din = s.din := rfl
@[simp] theorem latch_dout : (latch op slot s).dout = s.dout := rfl
@[simp] theorem latch_seen : (latch op slot s).seen = s.seen := rfl
@[simp] theorem latch_env : (latch op slot s).env = s.env := rfl
@[simp] theorem latch_orphans : (latch op slot s).orphans = s.orphans := rfl
@[simp] theorem latch_requester : (latch op slot s).requester = s.requester := rfl
@[simp] theorem latch_softwareRsp : (latch op slot s).softwareRsp = s.softwareRsp := rfl
@[simp] theorem latch_agenda : (latch op slot s).agenda = s.agenda := rfl
@[simp] theorem latch_draws : (latch op slot s).draws = s.draws + 13 := rfl
end latchFields

section acceptTransmitFields
variable (slot : BitVec 2) (len : Byte) (id : LogicalId) (s : State)
@[simp] theorem acceptTransmit_cfg : (acceptTransmit slot len id s).cfg = s.cfg := rfl
@[simp] theorem acceptTransmit_phase : (acceptTransmit slot len id s).phase = Phase.txLoad := rfl
@[simp] theorem acceptTransmit_await : (acceptTransmit slot len id s).await = false := rfl
@[simp] theorem acceptTransmit_rspIn : (acceptTransmit slot len id s).rspIn = none := rfl
@[simp] theorem acceptTransmit_cmdOp : (acceptTransmit slot len id s).cmdOp = some CmdOp.transmit := rfl
@[simp] theorem acceptTransmit_cmdSlot : (acceptTransmit slot len id s).cmdSlot = some slot := rfl
@[simp] theorem acceptTransmit_idIn : (acceptTransmit slot len id s).idIn = some id := rfl
@[simp] theorem acceptTransmit_lenIn : (acceptTransmit slot len id s).lenIn = some len := rfl
@[simp] theorem acceptTransmit_buf : (acceptTransmit slot len id s).buf = encodeFrame s.cfg id len s.din (nextDraws s 13) := rfl
@[simp] theorem acceptTransmit_stat : (acceptTransmit slot len id s).stat = none := rfl
@[simp] theorem acceptTransmit_result : (acceptTransmit slot len id s).result = none := rfl
@[simp] theorem acceptTransmit_failval : (acceptTransmit slot len id s).failval = none := rfl
@[simp] theorem acceptTransmit_idOut : (acceptTransmit slot len id s).idOut = none := rfl
@[simp] theorem acceptTransmit_lenOut : (acceptTransmit slot len id s).lenOut = none := rfl
@[simp] theorem acceptTransmit_faultReg : (acceptTransmit slot len id s).faultReg = s.faultReg := rfl
@[simp] theorem acceptTransmit_trace : (acceptTransmit slot len id s).trace = s.trace ++ dinReads len := rfl
@[simp] theorem acceptTransmit_port : (acceptTransmit slot len id s).port = s.port := rfl
@[simp] theorem acceptTransmit_din : (acceptTransmit slot len id s).din = s.din := rfl
@[simp] theorem acceptTransmit_dout : (acceptTransmit slot len id s).dout = s.dout := rfl
@[simp] theorem acceptTransmit_seen : (acceptTransmit slot len id s).seen = s.seen := rfl
@[simp] theorem acceptTransmit_env : (acceptTransmit slot len id s).env = s.env := rfl
@[simp] theorem acceptTransmit_orphans : (acceptTransmit slot len id s).orphans = s.orphans := rfl
@[simp] theorem acceptTransmit_requester : (acceptTransmit slot len id s).requester = s.requester := rfl
@[simp] theorem acceptTransmit_softwareRsp : (acceptTransmit slot len id s).softwareRsp = s.softwareRsp := rfl
@[simp] theorem acceptTransmit_agenda : (acceptTransmit slot len id s).agenda = s.agenda := rfl
@[simp] theorem acceptTransmit_draws : (acceptTransmit slot len id s).draws = s.draws + 13 := rfl
end acceptTransmitFields

section acceptReceiveFields
variable (slot : BitVec 2) (s : State)
@[simp] theorem acceptReceive_cfg : (acceptReceive slot s).cfg = s.cfg := rfl
@[simp] theorem acceptReceive_phase : (acceptReceive slot s).phase = Phase.rxBuf := rfl
@[simp] theorem acceptReceive_await : (acceptReceive slot s).await = false := rfl
@[simp] theorem acceptReceive_rspIn : (acceptReceive slot s).rspIn = none := rfl
@[simp] theorem acceptReceive_cmdOp : (acceptReceive slot s).cmdOp = some CmdOp.receive := rfl
@[simp] theorem acceptReceive_cmdSlot : (acceptReceive slot s).cmdSlot = some slot := rfl
@[simp] theorem acceptReceive_idIn : (acceptReceive slot s).idIn = none := rfl
@[simp] theorem acceptReceive_lenIn : (acceptReceive slot s).lenIn = none := rfl
@[simp] theorem acceptReceive_buf : (acceptReceive slot s).buf = nextDraws s 13 := rfl
@[simp] theorem acceptReceive_stat : (acceptReceive slot s).stat = none := rfl
@[simp] theorem acceptReceive_result : (acceptReceive slot s).result = none := rfl
@[simp] theorem acceptReceive_failval : (acceptReceive slot s).failval = none := rfl
@[simp] theorem acceptReceive_idOut : (acceptReceive slot s).idOut = none := rfl
@[simp] theorem acceptReceive_lenOut : (acceptReceive slot s).lenOut = none := rfl
@[simp] theorem acceptReceive_faultReg : (acceptReceive slot s).faultReg = s.faultReg := rfl
@[simp] theorem acceptReceive_trace : (acceptReceive slot s).trace = s.trace := rfl
@[simp] theorem acceptReceive_port : (acceptReceive slot s).port = s.port := rfl
@[simp] theorem acceptReceive_din : (acceptReceive slot s).din = s.din := rfl
@[simp] theorem acceptReceive_dout : (acceptReceive slot s).dout = s.dout := rfl
@[simp] theorem acceptReceive_seen : (acceptReceive slot s).seen = s.seen := rfl
@[simp] theorem acceptReceive_env : (acceptReceive slot s).env = s.env := rfl
@[simp] theorem acceptReceive_orphans : (acceptReceive slot s).orphans = s.orphans := rfl
@[simp] theorem acceptReceive_requester : (acceptReceive slot s).requester = s.requester := rfl
@[simp] theorem acceptReceive_softwareRsp : (acceptReceive slot s).softwareRsp = s.softwareRsp := rfl
@[simp] theorem acceptReceive_agenda : (acceptReceive slot s).agenda = s.agenda := rfl
@[simp] theorem acceptReceive_draws : (acceptReceive slot s).draws = s.draws + 13 := rfl
end acceptReceiveFields

section issueFields
variable (t : Transaction) (s : State)
@[simp] theorem issue_cfg : (issue t s).cfg = s.cfg := rfl
@[simp] theorem issue_phase : (issue t s).phase = s.phase := rfl
@[simp] theorem issue_await : (issue t s).await = true := rfl
@[simp] theorem issue_rspIn : (issue t s).rspIn = s.rspIn := rfl
@[simp] theorem issue_cmdOp : (issue t s).cmdOp = s.cmdOp := rfl
@[simp] theorem issue_cmdSlot : (issue t s).cmdSlot = s.cmdSlot := rfl
@[simp] theorem issue_idIn : (issue t s).idIn = s.idIn := rfl
@[simp] theorem issue_lenIn : (issue t s).lenIn = s.lenIn := rfl
@[simp] theorem issue_buf : (issue t s).buf = s.buf := rfl
@[simp] theorem issue_stat : (issue t s).stat = s.stat := rfl
@[simp] theorem issue_result : (issue t s).result = s.result := rfl
@[simp] theorem issue_failval : (issue t s).failval = s.failval := rfl
@[simp] theorem issue_idOut : (issue t s).idOut = s.idOut := rfl
@[simp] theorem issue_lenOut : (issue t s).lenOut = s.lenOut := rfl
@[simp] theorem issue_faultReg : (issue t s).faultReg = s.faultReg := rfl
@[simp] theorem issue_trace : (issue t s).trace = s.trace ++ [.issue t] := rfl
@[simp] theorem issue_port : (issue t s).port = some t := rfl
@[simp] theorem issue_din : (issue t s).din = s.din := rfl
@[simp] theorem issue_dout : (issue t s).dout = s.dout := rfl
@[simp] theorem issue_seen : (issue t s).seen = s.seen := rfl
@[simp] theorem issue_env : (issue t s).env = s.env := rfl
@[simp] theorem issue_orphans : (issue t s).orphans = s.orphans := rfl
@[simp] theorem issue_requester : (issue t s).requester = s.requester := rfl
@[simp] theorem issue_softwareRsp : (issue t s).softwareRsp = s.softwareRsp := rfl
@[simp] theorem issue_agenda : (issue t s).agenda = s.agenda := rfl
@[simp] theorem issue_draws : (issue t s).draws = s.draws := rfl
end issueFields

section takeResponseFields
variable (r : Response) (s : State)
@[simp] theorem takeResponse_cfg : (takeResponse r s).cfg = s.cfg := rfl
@[simp] theorem takeResponse_phase : (takeResponse r s).phase = s.phase := rfl
@[simp] theorem takeResponse_await : (takeResponse r s).await = false := rfl
@[simp] theorem takeResponse_rspIn : (takeResponse r s).rspIn = none := rfl
@[simp] theorem takeResponse_cmdOp : (takeResponse r s).cmdOp = s.cmdOp := rfl
@[simp] theorem takeResponse_cmdSlot : (takeResponse r s).cmdSlot = s.cmdSlot := rfl
@[simp] theorem takeResponse_idIn : (takeResponse r s).idIn = s.idIn := rfl
@[simp] theorem takeResponse_lenIn : (takeResponse r s).lenIn = s.lenIn := rfl
@[simp] theorem takeResponse_buf : (takeResponse r s).buf = s.buf := rfl
@[simp] theorem takeResponse_stat : (takeResponse r s).stat = s.stat := rfl
@[simp] theorem takeResponse_result : (takeResponse r s).result = s.result := rfl
@[simp] theorem takeResponse_failval : (takeResponse r s).failval = s.failval := rfl
@[simp] theorem takeResponse_idOut : (takeResponse r s).idOut = s.idOut := rfl
@[simp] theorem takeResponse_lenOut : (takeResponse r s).lenOut = s.lenOut := rfl
@[simp] theorem takeResponse_faultReg : (takeResponse r s).faultReg = s.faultReg := rfl
@[simp] theorem takeResponse_trace : (takeResponse r s).trace = s.trace ++ [.resp r] := rfl
@[simp] theorem takeResponse_port : (takeResponse r s).port = s.port := rfl
@[simp] theorem takeResponse_din : (takeResponse r s).din = s.din := rfl
@[simp] theorem takeResponse_dout : (takeResponse r s).dout = s.dout := rfl
@[simp] theorem takeResponse_seen : (takeResponse r s).seen = s.seen := rfl
@[simp] theorem takeResponse_env : (takeResponse r s).env = s.env := rfl
@[simp] theorem takeResponse_orphans : (takeResponse r s).orphans = s.orphans := rfl
@[simp] theorem takeResponse_requester : (takeResponse r s).requester = s.requester := rfl
@[simp] theorem takeResponse_softwareRsp : (takeResponse r s).softwareRsp = s.softwareRsp := rfl
@[simp] theorem takeResponse_agenda : (takeResponse r s).agenda = s.agenda := rfl
@[simp] theorem takeResponse_draws : (takeResponse r s).draws = s.draws := rfl
end takeResponseFields

section storeImageFields
variable (b : Image) (s : State)
@[simp] theorem storeImage_cfg : (storeImage b s).cfg = s.cfg := rfl
@[simp] theorem storeImage_phase : (storeImage b s).phase = Phase.rxCtrl := rfl
@[simp] theorem storeImage_await : (storeImage b s).await = s.await := rfl
@[simp] theorem storeImage_rspIn : (storeImage b s).rspIn = s.rspIn := rfl
@[simp] theorem storeImage_cmdOp : (storeImage b s).cmdOp = s.cmdOp := rfl
@[simp] theorem storeImage_cmdSlot : (storeImage b s).cmdSlot = s.cmdSlot := rfl
@[simp] theorem storeImage_idIn : (storeImage b s).idIn = s.idIn := rfl
@[simp] theorem storeImage_lenIn : (storeImage b s).lenIn = s.lenIn := rfl
@[simp] theorem storeImage_buf : (storeImage b s).buf = b := rfl
@[simp] theorem storeImage_stat : (storeImage b s).stat = s.stat := rfl
@[simp] theorem storeImage_result : (storeImage b s).result = s.result := rfl
@[simp] theorem storeImage_failval : (storeImage b s).failval = s.failval := rfl
@[simp] theorem storeImage_idOut : (storeImage b s).idOut = s.idOut := rfl
@[simp] theorem storeImage_lenOut : (storeImage b s).lenOut = s.lenOut := rfl
@[simp] theorem storeImage_faultReg : (storeImage b s).faultReg = s.faultReg := rfl
@[simp] theorem storeImage_trace : (storeImage b s).trace = s.trace := rfl
@[simp] theorem storeImage_port : (storeImage b s).port = s.port := rfl
@[simp] theorem storeImage_din : (storeImage b s).din = s.din := rfl
@[simp] theorem storeImage_dout : (storeImage b s).dout = s.dout := rfl
@[simp] theorem storeImage_seen : (storeImage b s).seen = s.seen := rfl
@[simp] theorem storeImage_env : (storeImage b s).env = s.env := rfl
@[simp] theorem storeImage_orphans : (storeImage b s).orphans = s.orphans := rfl
@[simp] theorem storeImage_requester : (storeImage b s).requester = s.requester := rfl
@[simp] theorem storeImage_softwareRsp : (storeImage b s).softwareRsp = s.softwareRsp := rfl
@[simp] theorem storeImage_agenda : (storeImage b s).agenda = s.agenda := rfl
@[simp] theorem storeImage_draws : (storeImage b s).draws = s.draws := rfl
end storeImageFields

section decodeFrameFields
variable (stat : Byte) (s : State)
@[simp] theorem decodeFrame_cfg : (decodeFrame stat s).cfg = s.cfg := rfl
@[simp] theorem decodeFrame_phase : (decodeFrame stat s).phase = s.phase := rfl
@[simp] theorem decodeFrame_await : (decodeFrame stat s).await = s.await := rfl
@[simp] theorem decodeFrame_rspIn : (decodeFrame stat s).rspIn = s.rspIn := rfl
@[simp] theorem decodeFrame_cmdOp : (decodeFrame stat s).cmdOp = s.cmdOp := rfl
@[simp] theorem decodeFrame_cmdSlot : (decodeFrame stat s).cmdSlot = s.cmdSlot := rfl
@[simp] theorem decodeFrame_idIn : (decodeFrame stat s).idIn = s.idIn := rfl
@[simp] theorem decodeFrame_lenIn : (decodeFrame stat s).lenIn = s.lenIn := rfl
@[simp] theorem decodeFrame_buf : (decodeFrame stat s).buf = s.buf := rfl
@[simp] theorem decodeFrame_stat : (decodeFrame stat s).stat = s.stat := rfl
@[simp] theorem decodeFrame_result : (decodeFrame stat s).result = s.result := rfl
@[simp] theorem decodeFrame_failval : (decodeFrame stat s).failval = s.failval := rfl
@[simp] theorem decodeFrame_idOut : (decodeFrame stat s).idOut = some (decodeId s.cfg s.buf stat) := rfl
@[simp] theorem decodeFrame_lenOut : (decodeFrame stat s).lenOut = some (decodeLen s.buf) := rfl
@[simp] theorem decodeFrame_faultReg : (decodeFrame stat s).faultReg = s.faultReg := rfl
@[simp] theorem decodeFrame_trace : (decodeFrame stat s).trace = s.trace ++ doutWrites (receivedBytes s.buf) 0 := rfl
@[simp] theorem decodeFrame_port : (decodeFrame stat s).port = s.port := rfl
@[simp] theorem decodeFrame_din : (decodeFrame stat s).din = s.din := rfl
@[simp] theorem decodeFrame_dout : (decodeFrame stat s).dout = copyOut (receivedBytes s.buf) 0 s.dout := rfl
@[simp] theorem decodeFrame_seen : (decodeFrame stat s).seen = s.seen := rfl
@[simp] theorem decodeFrame_env : (decodeFrame stat s).env = s.env := rfl
@[simp] theorem decodeFrame_orphans : (decodeFrame stat s).orphans = s.orphans := rfl
@[simp] theorem decodeFrame_requester : (decodeFrame stat s).requester = s.requester := rfl
@[simp] theorem decodeFrame_softwareRsp : (decodeFrame stat s).softwareRsp = s.softwareRsp := rfl
@[simp] theorem decodeFrame_agenda : (decodeFrame stat s).agenda = s.agenda := rfl
@[simp] theorem decodeFrame_draws : (decodeFrame stat s).draws = s.draws := rfl
end decodeFrameFields

end Sys2Proof.Machine
end

