-- ==== Sys2Proof/Laws/Ops.lean ====
section
/-! SUPPORT. One lemma per shared operation saying everything it can do: the acceptance gate, the response, carrying out
a transaction, completing a command, and the block's turn. -/

namespace Sys2Proof.Machine

@[simp] theorem readWritten_none {α : Type} (r : RegisterName) :
    readWritten r (none : Option α) = .error (.unwrittenRegister r) := rfl

@[simp] theorem readWritten_some {α : Type} (r : RegisterName) (v : α) : readWritten r (some v) = .ok v := rfl

/-- Reading a register gives its value where it is written, and faults by its name where it is not (R14). -/
theorem readWritten_eq_error_iff {α : Type} (r : RegisterName) (o : Option α) (f : Fault) :
    readWritten r o = .error f ↔ o = none ∧ f = .unwrittenRegister r := by
  cases o <;> simp [eq_comm]

/-- The registers hold codes that are written (R33, R232), exactly where the block's steps do not fault on them. -/
theorem corruptRegister_none_iff (s : State) :
    corruptRegister s = none ↔ s.phase ≠ 5 ∧ s.phase ≠ 6 ∧ s.faultReg.toNat ≤ 5 := by
  unfold corruptRegister
  split
  · rename_i h
    rcases h with h | h <;> simp [h]
  · rename_i h
    push Not at h
    split
    · rename_i h6
      simp only [reduceCtorEq, false_iff, not_and]
      intros
      omega
    · exact ⟨fun _ => ⟨h.1, h.2, by omega⟩, fun _ => rfl⟩

theorem corruptRegister_idle {s : State} (hp : s.phase = Phase.idle) (hf : s.faultReg.toNat ≤ 5) :
    corruptRegister s = none := (corruptRegister_none_iff s).2 ⟨hp ▸ by decide, hp ▸ by decide, hf⟩

/-- In IDLE a command is looked at (R180). -/
theorem acceptGate_open {s : State} (hp : s.phase = Phase.idle) (hf : s.faultReg.toNat ≤ 5) : acceptGate s = none := by
  simp [acceptGate, corruptRegister_idle hp hf, hp, Phase.idle, Phase.faulted]

/-- Everything the acceptance gate can do: a fault of the model, held in FAULTED, REENTRY, or nothing in IDLE. -/
theorem acceptGate_cases (s : State) :
    (∃ f, corruptRegister s = some f ∧ acceptGate s = some (.fault f)) ∨
    (corruptRegister s = none ∧ s.phase = Phase.faulted ∧ acceptGate s = some (.next s)) ∨
    (corruptRegister s = none ∧ s.phase = Phase.idle ∧ acceptGate s = none) ∨
    (corruptRegister s = none ∧ s.phase ≠ Phase.faulted ∧ s.phase ≠ Phase.idle ∧
      acceptGate s = some (.next (raiseFault FaultCode.reentry s))) := by
  unfold acceptGate
  cases hc : corruptRegister s with
  | some f => exact .inl ⟨f, rfl, rfl⟩
  | none =>
    by_cases h7 : s.phase = Phase.faulted
    · exact .inr (.inl ⟨rfl, h7, by simp [h7]⟩)
    · by_cases h0 : s.phase = Phase.idle
      · exact .inr (.inr (.inl ⟨rfl, h0, by simp [h0, h0 ▸ h7]⟩))
      · exact .inr (.inr (.inr ⟨rfl, h7, h0, by simp [h7, h0]⟩))

/-- Everything a presented TRANSMIT can do. -/
theorem execTransmit_cases (slot : BitVec 2) (len : Byte) (id : LogicalId) (s : State) :
    acceptGate s = some (execTransmit slot len id s) ∨
    (acceptGate s = none ∧ ((2 < slot.toNat ∧ execTransmit slot len id s = .next (raiseFault FaultCode.invalidSlot s)) ∨
      (slot.toNat ≤ 2 ∧ s.din.length < payloadCount len ∧
        execTransmit slot len id s = .next (raiseFault FaultCode.dataUnderrun s)) ∨
      (slot.toNat ≤ 2 ∧ payloadCount len ≤ s.din.length ∧
        execTransmit slot len id s = .next (acceptTransmit slot len id s)))) := by
  unfold execTransmit
  cases acceptGate s with
  | some o => exact .inl rfl
  | none =>
    refine .inr ⟨rfl, ?_⟩
    by_cases h : 2 < slot.toNat
    · exact .inl ⟨h, by simp [h]⟩
    · by_cases h' : s.din.length < payloadCount len
      · exact .inr (.inl ⟨Nat.le_of_not_lt h, h', by simp [h, h']⟩)
      · exact .inr (.inr ⟨Nat.le_of_not_lt h, Nat.le_of_not_lt h', by simp [h, h']⟩)

/-- Everything a presented RECEIVE can do. -/
theorem execReceive_cases (slot : BitVec 2) (s : State) :
    acceptGate s = some (execReceive slot s) ∨
    (acceptGate s = none ∧ ((1 < slot.toNat ∧ execReceive slot s = .next (raiseFault FaultCode.invalidSlot s)) ∨
      (slot.toNat ≤ 1 ∧ execReceive slot s = .next (acceptReceive slot s)))) := by
  unfold execReceive
  cases acceptGate s with
  | some o => exact .inl rfl
  | none =>
    refine .inr ⟨rfl, ?_⟩
    by_cases h : 1 < slot.toNat
    · exact .inl ⟨h, by simp [h]⟩
    · exact .inr ⟨Nat.le_of_not_lt h, by simp [h]⟩

/-- The block's response slot takes a response only where one is awaited (R34, R181). -/
theorem answerBlock_cases (r : Response) (s : State) :
    (s.await = true ∧ s.rspIn = none ∧ answerBlock r s = storeResponse r s) ∨
    (¬ (s.await = true ∧ s.rspIn = none) ∧ answerBlock r s = s) := by
  unfold answerBlock
  by_cases h : s.await = true ∧ s.rspIn = none
  · exact .inl ⟨h.1, h.2, if_pos h⟩
  · exact .inr ⟨h, if_neg h⟩

/-- Where a response goes (R210): to the block that awaits it, to the software, or nowhere. -/
theorem respond_cases (r : Response) (s : State) :
    (s.requester = .block ∧ respond r s = answerBlock r s) ∨
    (s.requester = .software ∧ respond r s = answerSoftware r s) ∨
    (s.requester = .nobody ∧ respond r s = s) := by
  unfold respond
  cases s.requester
  · exact .inl ⟨rfl, rfl⟩
  · exact .inr (.inl ⟨rfl, rfl⟩)
  · exact .inr (.inr ⟨rfl, rfl⟩)

/-- A response that the block awaits. -/
theorem respond_block (r : Response) {s : State} (hq : s.requester = .block) (ha : s.await = true)
    (hr : s.rspIn = none) : respond r s = storeResponse r s := by
  simp [respond, answerBlock, hq, ha, hr]

/-- Carrying out a transaction is its scheduled failure, or its effect and its success response (R93, R217). -/
theorem carryOut_cases (effect : State → State) (success : Response) (s : State) :
    (∃ f, scheduledFailure s = some f ∧ carryOut effect success s = respond (.fail f) (takeTransaction s)) ∨
    (scheduledFailure s = none ∧ carryOut effect success s = respond success (effect (takeTransaction s))) := by
  unfold carryOut
  cases scheduledFailure s with
  | some f => exact .inl ⟨f, rfl, rfl⟩
  | none => exact .inr ⟨rfl, rfl⟩

/-- Ending a command with a failure (R188, R189, R231). -/
theorem completeFail_transmit (f : FailureValue) {s : State} (h : s.cmdOp = some CmdOp.transmit) :
    completeFail f s = .next (finish Result.busFail (storeFailval f s)) := by
  simp [completeFail, h, CmdOp.transmit, CmdOp.receive]

theorem completeFail_receive (f : FailureValue) {s : State} (h : s.cmdOp = some CmdOp.receive) :
    completeFail f s = .next (finish Result.busFail (failReceiveOutputs (storeFailval f s))) := by
  simp [completeFail, h]

/-- Everything the block's turn can do (R181, R235): a fault of the model, no step, a consume step, or an issue step. -/
theorem blockStep_cases (s : State) :
    (∃ f, corruptRegister s = some f ∧ blockStep s = .fault f) ∨
    (corruptRegister s = none ∧ (s.phase = Phase.idle ∨ s.phase = Phase.faulted) ∧ blockStep s = .next s) ∨
    (corruptRegister s = none ∧ s.phase ≠ Phase.idle ∧ s.phase ≠ Phase.faulted ∧
      ((s.await = true ∧ s.rspIn = none ∧ blockStep s = .next s) ∨
       (∃ r, s.await = true ∧ s.rspIn = some r ∧ blockStep s = consumeStep r s) ∨
       (s.await = false ∧ blockStep s = issueStep s))) := by
  unfold blockStep
  cases hc : corruptRegister s with
  | some f => exact .inl ⟨f, rfl, rfl⟩
  | none =>
    by_cases h : s.phase = Phase.idle ∨ s.phase = Phase.faulted
    · exact .inr (.inl ⟨rfl, h, if_pos h⟩)
    · refine .inr (.inr ⟨rfl, fun e => h (.inl e), fun e => h (.inr e), ?_⟩)
      simp only [if_neg h]
      cases ha : s.await with
      | false => exact .inr (.inr ⟨rfl, by simp⟩)
      | true =>
        cases hr : s.rspIn with
        | none => exact .inl ⟨rfl, rfl, by simp⟩
        | some r => exact .inr (.inl ⟨r, rfl, rfl, by simp⟩)

/-! A response touches `RSP_IN`, the port and the software's slot, and nothing else. -/

section responseFields
variable (r : Response) (s : State)

@[simp] theorem answerBlock_cfg : (answerBlock r s).cfg = s.cfg := by unfold answerBlock; split <;> rfl
@[simp] theorem answerBlock_phase : (answerBlock r s).phase = s.phase := by unfold answerBlock; split <;> rfl
@[simp] theorem answerBlock_await : (answerBlock r s).await = s.await := by unfold answerBlock; split <;> rfl
@[simp] theorem answerBlock_cmdOp : (answerBlock r s).cmdOp = s.cmdOp := by unfold answerBlock; split <;> rfl
@[simp] theorem answerBlock_cmdSlot : (answerBlock r s).cmdSlot = s.cmdSlot := by unfold answerBlock; split <;> rfl
@[simp] theorem answerBlock_idIn : (answerBlock r s).idIn = s.idIn := by unfold answerBlock; split <;> rfl
@[simp] theorem answerBlock_lenIn : (answerBlock r s).lenIn = s.lenIn := by unfold answerBlock; split <;> rfl
@[simp] theorem answerBlock_buf : (answerBlock r s).buf = s.buf := by unfold answerBlock; split <;> rfl
@[simp] theorem answerBlock_stat : (answerBlock r s).stat = s.stat := by unfold answerBlock; split <;> rfl
@[simp] theorem answerBlock_result : (answerBlock r s).result = s.result := by unfold answerBlock; split <;> rfl
@[simp] theorem answerBlock_failval : (answerBlock r s).failval = s.failval := by unfold answerBlock; split <;> rfl
@[simp] theorem answerBlock_idOut : (answerBlock r s).idOut = s.idOut := by unfold answerBlock; split <;> rfl
@[simp] theorem answerBlock_lenOut : (answerBlock r s).lenOut = s.lenOut := by unfold answerBlock; split <;> rfl
@[simp] theorem answerBlock_faultReg : (answerBlock r s).faultReg = s.faultReg := by unfold answerBlock; split <;> rfl
@[simp] theorem answerBlock_trace : (answerBlock r s).trace = s.trace := by unfold answerBlock; split <;> rfl
@[simp] theorem answerBlock_din : (answerBlock r s).din = s.din := by unfold answerBlock; split <;> rfl
@[simp] theorem answerBlock_dout : (answerBlock r s).dout = s.dout := by unfold answerBlock; split <;> rfl
@[simp] theorem answerBlock_seen : (answerBlock r s).seen = s.seen := by unfold answerBlock; split <;> rfl
@[simp] theorem answerBlock_env : (answerBlock r s).env = s.env := by unfold answerBlock; split <;> rfl
@[simp] theorem answerBlock_orphans : (answerBlock r s).orphans = s.orphans := by unfold answerBlock; split <;> rfl
@[simp] theorem answerBlock_requester : (answerBlock r s).requester = s.requester := by unfold answerBlock; split <;> rfl
@[simp] theorem answerBlock_agenda : (answerBlock r s).agenda = s.agenda := by unfold answerBlock; split <;> rfl
@[simp] theorem answerBlock_draws : (answerBlock r s).draws = s.draws := by unfold answerBlock; split <;> rfl
@[simp] theorem answerBlock_softwareRsp : (answerBlock r s).softwareRsp = s.softwareRsp := by unfold answerBlock; split <;> rfl
@[simp] theorem respond_cfg : (respond r s).cfg = s.cfg := by unfold respond; split <;> simp
@[simp] theorem respond_phase : (respond r s).phase = s.phase := by unfold respond; split <;> simp
@[simp] theorem respond_await : (respond r s).await = s.await := by unfold respond; split <;> simp
@[simp] theorem respond_cmdOp : (respond r s).cmdOp = s.cmdOp := by unfold respond; split <;> simp
@[simp] theorem respond_cmdSlot : (respond r s).cmdSlot = s.cmdSlot := by unfold respond; split <;> simp
@[simp] theorem respond_idIn : (respond r s).idIn = s.idIn := by unfold respond; split <;> simp
@[simp] theorem respond_lenIn : (respond r s).lenIn = s.lenIn := by unfold respond; split <;> simp
@[simp] theorem respond_buf : (respond r s).buf = s.buf := by unfold respond; split <;> simp
@[simp] theorem respond_stat : (respond r s).stat = s.stat := by unfold respond; split <;> simp
@[simp] theorem respond_result : (respond r s).result = s.result := by unfold respond; split <;> simp
@[simp] theorem respond_failval : (respond r s).failval = s.failval := by unfold respond; split <;> simp
@[simp] theorem respond_idOut : (respond r s).idOut = s.idOut := by unfold respond; split <;> simp
@[simp] theorem respond_lenOut : (respond r s).lenOut = s.lenOut := by unfold respond; split <;> simp
@[simp] theorem respond_faultReg : (respond r s).faultReg = s.faultReg := by unfold respond; split <;> simp
@[simp] theorem respond_trace : (respond r s).trace = s.trace := by unfold respond; split <;> simp
@[simp] theorem respond_din : (respond r s).din = s.din := by unfold respond; split <;> simp
@[simp] theorem respond_dout : (respond r s).dout = s.dout := by unfold respond; split <;> simp
@[simp] theorem respond_seen : (respond r s).seen = s.seen := by unfold respond; split <;> simp
@[simp] theorem respond_env : (respond r s).env = s.env := by unfold respond; split <;> simp
@[simp] theorem respond_orphans : (respond r s).orphans = s.orphans := by unfold respond; split <;> simp
@[simp] theorem respond_requester : (respond r s).requester = s.requester := by unfold respond; split <;> simp
@[simp] theorem respond_agenda : (respond r s).agenda = s.agenda := by unfold respond; split <;> simp
@[simp] theorem respond_draws : (respond r s).draws = s.draws := by unfold respond; split <;> simp
end responseFields

end Sys2Proof.Machine
end

