-- ==== Sys2Proof/Laws/PerInstr.lean ====
section
/-! SUPPORT. The per-instruction family RowBits: the word an instruction is encoded as has the fixed bits of its row of
opcode_table.json (30_encoding.md rules R116 and R119). -/

namespace Sys2Proof.Laws.RowBits

/-- The fixed bits of the row, as the table gives them: the word under the row's mask is the row's match. -/
def hasRowBits (i : Instr) (w : PortWord) : Prop :=
  match i, w with
  | .transmit .., .command c _ => c &&& 0xCF00 = 0x0000
  | .receive .., .command c _ => c &&& 0xEFFF = 0x4000
  | .loadTx .., .transaction t => t.txh &&& 0xE7FFFFFF = 0x00000000 ∧ t.payload.length = 13
  | .reqSend .., .transaction t => t.txh &&& 0xE7FFFFFF = 0x20000000 ∧ t.payload = []
  | .readRx .., .transaction t => t.txh &&& 0xF7FFFFFF = 0x40000000 ∧ t.payload = []
  | .readReg .., .transaction t => t.txh &&& 0xFF00FFFF = 0x60000000 ∧ t.payload = []
  | .writeReg .., .transaction t => t.txh &&& 0xFF00FF00 = 0x80000000 ∧ t.payload = []
  | .modifyReg .., .transaction t => t.txh &&& 0xFF000000 = 0xA0000000 ∧ t.payload = []
  | _, _ => False

def Statement (i : Instr) : Prop := i.wellFormed = true → hasRowBits i (encode i)

theorem transmit (slot : BitVec 2) (len : Byte) (id : LogicalId) : Statement (.transmit slot len id) := by
  intro _
  change commandWord 0 slot len &&& 0xCF00 = 0x0000
  ext i hi
  interval_cases i <;> simp [getElem_commandWord]

theorem receive (slot : BitVec 2) : Statement (.receive slot) :=
  (by decide : ∀ slot : BitVec 2, isRxSlot slot = true → commandWord 1 slot 0 &&& 0xEFFF = 0x4000) slot

theorem loadTx (slot : BitVec 2) (payload : Image) : Statement (.loadTx slot payload) := fun _ =>
  ⟨(by decide : ∀ slot : BitVec 2, header 0 slot 0 0 0 &&& 0xE7FFFFFF = 0x00000000) slot, payload.length_toList⟩

theorem reqSend (slot : BitVec 2) : Statement (.reqSend slot) := fun _ =>
  ⟨(by decide : ∀ slot : BitVec 2, header 1 slot 0 0 0 &&& 0xE7FFFFFF = 0x20000000) slot, rfl⟩

theorem readRx (slot : BitVec 2) : Statement (.readRx slot) := fun h =>
  ⟨(by decide : ∀ slot : BitVec 2, isRxSlot slot = true → header 2 slot 0 0 0 &&& 0xF7FFFFFF = 0x40000000) slot h, rfl⟩

theorem readReg (addr : Byte) : Statement (.readReg addr) := by
  refine fun _ => ⟨?_, rfl⟩
  change header 3 0 addr 0 0 &&& 0xFF00FFFF = 0x60000000
  ext i hi
  interval_cases i <;> simp [getElem_header]

theorem writeReg (addr value : Byte) : Statement (.writeReg addr value) := by
  refine fun _ => ⟨?_, rfl⟩
  change header 4 0 addr 0 value &&& 0xFF00FF00 = 0x80000000
  ext i hi
  interval_cases i <;> simp [getElem_header]

theorem modifyReg (addr mask value : Byte) : Statement (.modifyReg addr mask value) := by
  refine fun _ => ⟨?_, rfl⟩
  change header 5 0 addr mask value &&& 0xFF000000 = 0xA0000000
  ext i hi
  interval_cases i <;> simp [getElem_header]

end Sys2Proof.Laws.RowBits
end

