-- ==== Sys2Proof/Laws/Step.lean ====
section
/-! SUPPORT. What one step can do, said once for each agent: the turn it takes, a presented command, the block's issue
and consume steps, and a transaction carried out by the environment. -/

namespace Sys2Proof.Machine

/-! The schedule. -/

theorem step_eq (s : State) : step s = takeTurn (nextTurn s).1 (nextTurn s).2 := rfl

theorem nextTurn_of_cons {s : State} {e : Turn} {rest : List Turn} (h : s.agenda = e :: rest) :
    nextTurn s = (e, keepTurns rest s) := by simp [nextTurn, h]

theorem step_of_cons {s : State} {e : Turn} {rest : List Turn} (h : s.agenda = e :: rest) :
    step s = takeTurn e (keepTurns rest s) := by rw [step_eq, nextTurn_of_cons h]

/-- Taking the next turn off the schedule changes the schedule and nothing else. -/
theorem nextTurn_rest (s : State) : ∃ rest, (nextTurn s).2 = keepTurns rest s := by
  unfold nextTurn
  split
  · rename_i h
    exact ⟨[], by rw [← h]; rfl⟩
  · exact ⟨_, rfl⟩

/-- One step of a run. -/
theorem run_succ_next {s s' : State} (k : Nat) (h : step s = .next s') : core.run (k + 1) s = core.run k s' := by
  have h' : core.step s = .next s' := h
  simp only [Host.Core.run, h']

/-! A presented command. -/

/-- Everything a presented command can do (R180, R236). -/
theorem presentCommand_cases (cmdw : BitVec 16) (id : LogicalId) (din : List Byte) (s : State) :
    (∃ f, corruptRegister s = some f ∧ presentCommand cmdw id din s = .fault f) ∨
    (corruptRegister s = none ∧
      ((s.phase = Phase.faulted ∧ presentCommand cmdw id din s = .next (provideDin din s)) ∨
       (s.phase ≠ Phase.faulted ∧ s.phase ≠ Phase.idle ∧
         presentCommand cmdw id din s = .next (raiseFault FaultCode.reentry (provideDin din s))) ∨
       (s.phase = Phase.idle ∧
         ((∃ code, 1 ≤ code.toNat ∧ code.toNat ≤ 3 ∧
            presentCommand cmdw id din s = .next (raiseFault code (provideDin din s))) ∨
          (∃ slot len, decodeCommand cmdw id = .ok (.transmit slot len id) ∧ slot.toNat ≤ 2 ∧
            payloadCount len ≤ din.length ∧
            presentCommand cmdw id din s = .next (acceptTransmit slot len id (provideDin din s))) ∨
          (∃ slot, decodeCommand cmdw id = .ok (.receive slot) ∧ slot.toNat ≤ 1 ∧
            presentCommand cmdw id din s = .next (acceptReceive slot (provideDin din s))))))) := by
  have gated : ∀ o, acceptGate (provideDin din s) = some o → presentCommand cmdw id din s = o := by
    intro o h
    rcases decodeCommand_cases cmdw id with hd | hd | hd <;>
      simp [presentCommand, hd, acceptIllegal, exec, execTransmit, execReceive, h]
  rcases acceptGate_cases (provideDin din s) with ⟨f, h1, h2⟩ | ⟨h1, h2, h3⟩ | ⟨h1, h2, h3⟩ | ⟨h1, h2, h3, h4⟩
  · exact .inl ⟨f, h1, gated _ h2⟩
  · exact .inr ⟨h1, .inl ⟨h2, gated _ h3⟩⟩
  · refine .inr ⟨h1, .inr (.inr ⟨h2, ?_⟩)⟩
    rcases decodeCommand_cases cmdw id with hd | hd | hd <;> simp only [presentCommand, hd, exec]
    · exact .inl ⟨FaultCode.illegalCommand, by decide, by decide, by simp [acceptIllegal, h3]⟩
    · rcases execTransmit_cases _ _ _ (provideDin din s) with h | ⟨-, h⟩
      · rw [h3] at h; cases h
      · rcases h with ⟨-, h⟩ | ⟨-, -, h⟩ | ⟨hs, hl, h⟩
        · exact .inl ⟨_, by decide, by decide, h⟩
        · exact .inl ⟨_, by decide, by decide, h⟩
        · exact .inr (.inl ⟨_, _, rfl, hs, hl, h⟩)
    · rcases execReceive_cases _ (provideDin din s) with h | ⟨-, h⟩
      · rw [h3] at h; cases h
      · rcases h with ⟨-, h⟩ | ⟨hs, h⟩
        · exact .inl ⟨_, by decide, by decide, h⟩
        · exact .inr (.inr ⟨_, rfl, hs, h⟩)
  · exact .inr ⟨h1, .inr (.inl ⟨h2, h3, gated _ h4⟩)⟩

/-! The block's turn. -/

/-- Everything the issue step can do (R181). -/
theorem issueStep_cases (s : State) :
    (∃ t, phaseTransaction s = .ok t ∧ issueStep s = .next (issue t s)) ∨
    (∃ f, phaseTransaction s = .error f ∧ issueStep s = .fault f) := by
  unfold issueStep
  cases phaseTransaction s with
  | ok t => exact .inl ⟨t, rfl, rfl⟩
  | error f => exact .inr ⟨f, rfl, rfl⟩

/-- Everything a consume step can do (R181): a failure, the phase's success arm, or BAD_RESPONSE. -/
theorem consumeStep_cases (r : Response) (s : State) :
    (∃ f, r = .fail f ∧ consumeStep r s = completeFail f (takeResponse r s)) ∨
    (s.phase = Phase.txLoad ∧ r = .ok ∧ consumeStep r s = .next (loadAcknowledged (takeResponse r s))) ∨
    (s.phase = Phase.txRts ∧ r = .ok ∧ consumeStep r s = .next (completeOk (takeResponse r s))) ∨
    (∃ b, s.phase = Phase.rxBuf ∧ r = .okBytes b ∧ consumeStep r s = .next (storeImage b (takeResponse r s))) ∨
    (∃ v, s.phase = Phase.rxCtrl ∧ r = .okByte v ∧ consumeStep r s = .next (receiveDone v (takeResponse r s))) ∨
    (consumeStep r s = .next (raiseFault FaultCode.badResponse (takeResponse r s)) ∧ (∀ f, r ≠ .fail f) ∧
      (r = .ok → s.phase ≠ Phase.txLoad ∧ s.phase ≠ Phase.txRts) ∧
      (∀ b, r = .okBytes b → s.phase ≠ Phase.rxBuf) ∧ (∀ v, r = .okByte v → s.phase ≠ Phase.rxCtrl)) := by
  cases r with
  | fail f => exact .inl ⟨f, rfl, rfl⟩
  | ok =>
    by_cases h1 : s.phase = Phase.txLoad
    · exact .inr (.inl ⟨h1, rfl, by simp [consumeStep, consumeArm, h1]⟩)
    · by_cases h2 : s.phase = Phase.txRts
      · exact .inr (.inr (.inl ⟨h2, rfl, by simp [consumeStep, consumeArm, h2, h2 ▸ h1]⟩))
      · exact .inr (.inr (.inr (.inr (.inr ⟨by simp [consumeStep, consumeArm, h1, h2], nofun,
          fun _ => ⟨h1, h2⟩, nofun, nofun⟩))))
  | okBytes b =>
    by_cases h : s.phase = Phase.rxBuf
    · exact .inr (.inr (.inr (.inl ⟨b, h, rfl, by simp [consumeStep, consumeArm, h]⟩)))
    · exact .inr (.inr (.inr (.inr (.inr ⟨by simp [consumeStep, consumeArm, h], nofun, nofun,
        fun _ _ => h, nofun⟩))))
  | okByte v =>
    by_cases h : s.phase = Phase.rxCtrl
    · exact .inr (.inr (.inr (.inr (.inl ⟨v, h, rfl, by simp [consumeStep, consumeArm, h]⟩))))
    · exact .inr (.inr (.inr (.inr (.inr ⟨by simp [consumeStep, consumeArm, h], nofun, nofun, nofun,
        fun _ _ => h⟩))))

/-! A transaction carried out by the environment. -/

/-- The environment after a transaction: the receive buffers and the failure schedule as before, one transaction more
taken, and the register memory still in its form. -/
abbrev EnvMoved (e e' : Env) : Prop :=
  e'.rxb = e.rxb ∧ e'.fails = e.fails ∧ e'.taken = e.taken + 1 ∧ (Memory.wf e.reg = true → Memory.wf e'.reg = true)

theorem txSlot?_of_lt {slot : BitVec 2} (h : slot.toNat < 3) : txSlot? slot = some ⟨slot.toNat, h⟩ := dif_pos h

theorem txSlot?_of_ge {slot : BitVec 2} (h : ¬ slot.toNat < 3) : txSlot? slot = none := dif_neg h

theorem rxSlot?_of_lt {slot : BitVec 2} (h : slot.toNat < 2) : rxSlot? slot = some ⟨slot.toNat, h⟩ := dif_pos h

theorem rxSlot?_of_ge {slot : BitVec 2} (h : ¬ slot.toNat < 2) : rxSlot? slot = none := dif_neg h

/-- Carrying out a transaction answers some response, in a state that differs in the controller and the draws only. -/
theorem carryOut_shape (effect : State → State) (success : Response) (s : State)
    (h : ∃ e d, effect (takeTransaction s) = { s with env := e, draws := d } ∧ EnvMoved s.env e) :
    ∃ r e d, carryOut effect success s = respond r { s with env := e, draws := d } ∧ EnvMoved s.env e := by
  rcases carryOut_cases effect success s with ⟨f, -, hc⟩ | ⟨-, hc⟩
  · exact ⟨.fail f, _, s.draws, hc, rfl, rfl, rfl, fun x => x⟩
  · obtain ⟨e, d, he, hm⟩ := h
    exact ⟨success, e, d, by rw [hc, he], hm⟩

/-- Everything a transaction can do: refused where its slot names no buffer, or answered. -/
theorem execTransaction_cases (i : Instr) (s : State) (hi : isTransaction i = true) :
    (i.wellFormed = false ∧ exec i s = .refused .noSuchBuffer) ∨
    (i.wellFormed = true ∧ ∃ r e d, exec i s = .next (respond r { s with env := e, draws := d }) ∧
      EnvMoved s.env e) := by
  have done : ∀ (effect : State → State) (success : Response),
      (∃ e d, effect (takeTransaction s) = { s with env := e, draws := d } ∧ EnvMoved s.env e) →
      ∃ r e d, (Host.Outcome.next (carryOut effect success s) : Out) =
        .next (respond r { s with env := e, draws := d }) ∧ EnvMoved s.env e := by
    intro effect success h
    obtain ⟨r, e, d, h1, h2⟩ := carryOut_shape effect success s h
    exact ⟨r, e, d, by rw [h1], h2⟩
  cases i with
  | transmit => cases hi
  | receive => cases hi
  | loadTx slot b =>
    by_cases h : slot.toNat < 3
    · refine .inr ⟨by simpa [Instr.wellFormed] using h, ?_⟩
      simp only [exec, execLoadTx, txSlot?_of_lt h]
      exact done _ _ ⟨_, _, rfl, rfl, rfl, rfl, fun x => x⟩
    · exact .inl ⟨by simpa [Instr.wellFormed] using h, by simp only [exec, execLoadTx, txSlot?_of_ge h]⟩
  | reqSend slot =>
    by_cases h : slot.toNat < 3
    · refine .inr ⟨by simpa [Instr.wellFormed] using h, ?_⟩
      simp only [exec, execReqSend, txSlot?_of_lt h]
      exact done _ _ ⟨_, _, rfl, rfl, rfl, rfl, fun x => x⟩
    · exact .inl ⟨by simpa [Instr.wellFormed] using h, by simp only [exec, execReqSend, txSlot?_of_ge h]⟩
  | readRx slot =>
    by_cases h : slot.toNat < 2
    · refine .inr ⟨by simpa [Instr.wellFormed] using h, ?_⟩
      simp only [exec, execReadRx, rxSlot?_of_lt h]
      exact done _ _ ⟨_, _, rfl, rfl, rfl, rfl, fun x => x⟩
    · exact .inl ⟨by simpa [Instr.wellFormed] using h, by simp only [exec, execReadRx, rxSlot?_of_ge h]⟩
  | readReg a => exact .inr ⟨rfl, done _ _ ⟨_, _, rfl, rfl, rfl, rfl, fun x => fixRegister_wf a s x⟩⟩
  | writeReg a v => exact .inr ⟨rfl, done _ _ ⟨_, _, rfl, rfl, rfl, rfl, fun x => writeRegister_wf a v s x⟩⟩
  | modifyReg a m v =>
    exact .inr ⟨rfl, done _ _ ⟨_, _, rfl, rfl, rfl, rfl,
      fun x => writeRegister_wf a _ _ (fixRegister_wf a (takeTransaction s) x)⟩⟩

/-- The only fault an instruction can end in is that of a register holding a code no rule writes (R33, R232): no
instruction reads an unwritten register (R14), in any state. -/
theorem exec_fault {i : Instr} {s : State} {f : Fault} (h : exec i s = .fault f) :
    corruptRegister s = some f ∧ ∀ r, f ≠ .unwrittenRegister r := by
  have hc : corruptRegister s = some f := by
    cases i <;> simp only [exec, execTransmit, execReceive, acceptGate, execLoadTx, execReqSend, execReadRx,
      execReadReg, execWriteReg, execModifyReg] at h <;> grind
  refine ⟨hc, ?_⟩
  rintro r rfl
  unfold corruptRegister at hc
  grind

/-- The decoder of the downstream port gives transactions only. -/
theorem decodeTransaction_isTransaction {t : Transaction} {i : Instr} (h : decodeTransaction t = .ok i) :
    isTransaction i = true := by
  simp only [decodeTransaction] at h
  repeat' split at h
  all_goals first
    | (cases h; done)
    | (cases h; rfl)

/-- Everything the environment can do with a transaction it is handed. -/
theorem performTransaction_cases (who : Requester) (t : Transaction) (s : State) :
    (∃ e, decodeTransaction t = .error e ∧ performTransaction who t s = .refused (.notATransaction e)) ∨
    (∃ i, decodeTransaction t = .ok i ∧
      ((i.wellFormed = false ∧ performTransaction who t s = .refused .noSuchBuffer) ∨
       (i.wellFormed = true ∧ ∃ r e d,
         performTransaction who t s = .next (respond r { s with requester := who, env := e, draws := d }) ∧
         EnvMoved s.env e))) := by
  cases h : decodeTransaction t with
  | error e => exact .inl ⟨e, rfl, by simp [performTransaction, h]⟩
  | ok i =>
    have hp : performTransaction who t s = exec i (serveFor who s) := by simp [performTransaction, h]
    refine .inr ⟨i, rfl, ?_⟩
    rw [hp]
    exact execTransaction_cases i (serveFor who s) (decodeTransaction_isTransaction h)

/-! What the block puts on the port is read back as what it stands for (R118). -/

@[simp] theorem decode_loadTxWord (slot : BitVec 2) (b : Image) :
    decodeTransaction (loadTxWord slot b) = .ok (.loadTx slot b) := by
  simp [decodeTransaction, loadTxWord]

@[simp] theorem decode_reqSendWord (slot : BitVec 2) : decodeTransaction (reqSendWord slot) = .ok (.reqSend slot) := by
  simp [decodeTransaction, reqSendWord]

theorem decode_readRxWord {slot : BitVec 2} (h : slot.toNat < 2) :
    decodeTransaction (readRxWord slot) = .ok (.readRx slot) := by
  simp [decodeTransaction, readRxWord, isRxSlot, h]

@[simp] theorem decode_readRegWord (a : Byte) : decodeTransaction (readRegWord a) = .ok (.readReg a) := by
  simp [decodeTransaction, readRegWord]

end Sys2Proof.Machine
end

