-- ==== Sys2Proof/Tests/Slice0.lean ====
section
/-! SUPPORT. Tests of single steps and functions against the vectors of 95_test_vectors.md and the encodings of
30_encoding.md rule R127, and for each obligation with hypotheses a witness that they can be met. -/

namespace Sys2Proof.Tests

open Sys2Proof Sys2Proof.Machine

/-! ## Small states -/

/-- The configuration of the test vectors: the defaults, with the two addresses 95 uses. -/
def cfg : Config := { Config.default with rxctrlAddr := #v[0x60, 0x70] }

def cfgLiteral : Config := { cfg with txExtLayout := .literal }
def cfgDefect : Config := { cfg with rxFlagTest := .precedenceDefect }
def cfgWhole : Config := { cfg with txDlcMask := .wholeByte }

def zeros : Image := Vector.replicate 13 0

/-- The receive buffer of 95 section 4. -/
def frame : Image := #v[0x24, 0x60, 0x00, 0x00, 0x02, 0xDE, 0xAD, 0, 0, 0, 0, 0, 0]

def eight : List Byte := [1, 2, 3, 4, 5, 6, 7, 8]

/-- IDLE, eight data bytes provided, the controller as 95 section 5 has it. -/
def idle : State :=
  { State.reset with
    cfg := cfg, buf := zeros, din := eight, dout := Vector.replicate 8 0x55
    env :=
      { txb := Vector.replicate 3 zeros, rxb := #v[frame, frame]
        reg := [(0x0F, 0x87), (0x2B, 0x3C), (0x70, 0x08)]
        txreq := Vector.replicate 3 false, fails := [], taken := 0 } }

/-- A command in progress in the given phase, with a response where one is there. -/
def busy (phase : BitVec 3) (op : BitVec 1) (slot : BitVec 2) (await : Bool) (r : Option Response) : State :=
  { idle with
    phase := phase, cmdOp := some op, cmdSlot := some slot, await := await, rspIn := r, buf := frame
    idIn := if op = 0 then some 0x123 else none, lenIn := if op = 0 then some 2 else none }

/-- A failure value: the one that every legal `FailureValue` type has. -/
def failure : FailureValue := ⟨0, .inl rfl⟩

def faulted : State := { idle with phase := 7, faultReg := 1 }

def withTurn (e : Turn) (s : State) : State := { s with agenda := [e] }

/-- The state after, where there is one. -/
def after : Out → Option State
  | .next s => some s
  | _ => none

/-! ## WellFormed: an ill-formed term for each check -/

theorem test_wellFormed_refuses :
    (Instr.transmit 3 0 0).wellFormed = false ∧ (Instr.receive 2).wellFormed = false ∧
    (Instr.loadTx 3 zeros).wellFormed = false ∧ (Instr.reqSend 3).wellFormed = false ∧
    (Instr.readRx 2).wellFormed = false := by decide

theorem test_wellFormed_accepts :
    (Instr.transmit 2 255 0).wellFormed = true ∧ (Instr.receive 1).wellFormed = true ∧
    (Instr.loadTx 2 zeros).wellFormed = true ∧ (Instr.reqSend 2).wellFormed = true ∧
    (Instr.readRx 1).wellFormed = true := by decide

/-! ## Decoding: words written out field by field (R111, R118), and the table's numbering -/

/-- `OP` 00, `SLOT` 10, `RSV` 0000, `LEN` 00001100 (R127: 0x200C). -/
theorem test_decode_transmit : decodeCommand 0b0010000000001100 0x100 = .ok (.transmit 2 12 0x100) := by decide

/-- `OP` 01, `SLOT` 01, `RSV` 0000, `LEN` 00000000 (R127: 0x5000). -/
theorem test_decode_receive : decodeCommand 0b0101000000000000 0xFFFFFFFF = .ok (.receive 1) := by decide

/-- `KIND` 000, `TSLOT` 01, and a payload of 13 bytes in offset order (R127: 0x08000000). -/
theorem test_decode_loadTx :
    decodeTransaction ⟨0b00001000000000000000000000000000, [0x24, 0x60, 0, 0, 2, 0xDE, 0xAD, 0, 0, 0, 0, 0, 0]⟩ =
      .ok (.loadTx 1 frame) := by decide

/-- `KIND` 001, `TSLOT` 10 (R127: 0x30000000). -/
theorem test_decode_reqSend :
    decodeTransaction ⟨0b00110000000000000000000000000000, []⟩ = .ok (.reqSend 2) := by decide

/-- `KIND` 010, `TSLOT` 01 (R127: 0x48000000). -/
theorem test_decode_readRx :
    decodeTransaction ⟨0b01001000000000000000000000000000, []⟩ = .ok (.readRx 1) := by decide

/-- `KIND` 011, `ADDR` 01110000 (R127: 0x60700000). -/
theorem test_decode_readReg :
    decodeTransaction ⟨0b01100000011100000000000000000000, []⟩ = .ok (.readReg 0x70) := by decide

/-- `KIND` 100, `ADDR` 00001111, `VALUE` 10000000 (R127: 0x800F0080). -/
theorem test_decode_writeReg :
    decodeTransaction ⟨0b10000000000011110000000010000000, []⟩ = .ok (.writeReg 0x0F 0x80) := by decide

/-- `KIND` 101, `ADDR` 00001111, `MASK` 11100000, `VALUE` 00000000 (R127: 0xA00FE000). -/
theorem test_decode_modifyReg :
    decodeTransaction ⟨0b10100000000011111110000000000000, []⟩ = .ok (.modifyReg 0x0F 0xE0 0x00) := by decide

/-- The words 95 section 3 lists as illegal or as naming no slot. -/
theorem test_decode_command_illegal :
    decodeCommand 0x8000 0 = .error .illegalCommand ∧ decodeCommand 0xC000 0 = .error .illegalCommand ∧
    decodeCommand 0xB000 0 = .error .illegalCommand ∧ decodeCommand 0x0100 0 = .error .illegalCommand ∧
    decodeCommand 0x4001 0 = .error .illegalCommand ∧ decodeCommand 0x6001 0 = .error .illegalCommand ∧
    decodeCommand 0x3000 0 = .ok (.transmit 3 0 0) ∧ decodeCommand 0x6000 0 = .ok (.receive 2) := by decide

/-- Reserved kinds, a reserved field that is set, a slot outside the row, and a payload of the wrong length. -/
theorem test_decode_transaction_illegal :
    decodeTransaction ⟨0xC0000000, []⟩ = .error .reservedKind ∧
    decodeTransaction ⟨0xE0000000, []⟩ = .error .reservedKind ∧
    decodeTransaction ⟨0x21000000, []⟩ = .error .reservedFieldSet ∧
    decodeTransaction ⟨0x60700001, []⟩ = .error .reservedFieldSet ∧
    decodeTransaction ⟨0x50000000, []⟩ = .error .noSuchReceiveSlot ∧
    decodeTransaction ⟨0x00000000, eight⟩ = .error .payloadLength ∧
    decodeTransaction ⟨0x20000000, eight⟩ = .error .payloadLength := by decide

theorem test_decodeTableWord :
    decodeTableWord 16 0x200C = some (.transmit 2 12 0) ∧ decodeTableWord 16 0x5000 = some (.receive 1) ∧
    decodeTableWord 32 0x08000000 = some (.loadTx 1 zeros) ∧ decodeTableWord 32 0x30000000 = some (.reqSend 2) ∧
    decodeTableWord 32 0x48000000 = some (.readRx 1) ∧ decodeTableWord 32 0x60700000 = some (.readReg 0x70) ∧
    decodeTableWord 32 0x800F0080 = some (.writeReg 0x0F 0x80) ∧
    decodeTableWord 32 0xA00FE000 = some (.modifyReg 0x0F 0xE0 0) ∧ decodeTableWord 16 0x8000 = none := by decide

/-- The step fetches the placed instruction: MODIFY_REG (R127) runs first, on the test controller. -/
theorem test_fetch_transaction :
    ((after (step (idle.withFetchWord 32 0xA02B0FA5))).bind fun s => readCell s.env.reg 0x2B) = some 0x35 := by decide

/-- The step fetches the placed command right after reset. -/
theorem test_fetch_command :
    (after (step (State.reset.withFetchWord 16 0x200C))).map (fun s => (s.phase, s.cmdSlot, s.lenIn)) =
      some (1, some 2, some 12) := by decide

/-! ## The marshaller: 95 sections 2.1 to 2.4 -/

theorem test_encode_standard :
    (encodeFrame cfg 0x123 2 [0xDE, 0xAD] zeros).toList.take 7 = [0x24, 0x60, 0, 0, 2, 0xDE, 0xAD] ∧
    (encodeFrame cfg 0x1FFFFFFF 0 [] zeros).toList.take 5 = [0xFF, 0xE0, 0, 0, 0] := by decide

theorem test_encode_extended :
    (encodeFrame cfg 0x32345678 0 [] zeros).toList.take 5 = [0x91, 0xA8, 0x56, 0x78, 0] ∧
    (encodeFrame cfg 0x7ABCDEF0 0 [] zeros).toList.take 5 = [0xD5, 0xE8, 0xDE, 0xF0, 0x40] := by decide

theorem test_encode_truncates :
    (encodeFrame cfg 0x100 12 (eight ++ [9, 10, 11, 12]) zeros).toList =
      [0x20, 0, 0, 0, 0x0C, 1, 2, 3, 4, 5, 6, 7, 8] ∧
    (encodeFrame cfg 0x40000100 9 (eight ++ [9]) zeros).toList.take 5 = [0x20, 0, 0, 0, 0x49] := by decide

theorem test_encode_whole_mask :
    dlcByte cfgWhole 0x100 0x4F = 0x4F ∧ dlcByte cfgWhole 0x40000100 9 = 0x49 ∧ dlcByte cfg 0x100 16 = 0 := by decide

theorem test_encode_literal :
    (encodeFrame cfgLiteral 0x32345678 0 [] zeros).toList.take 4 = [0xCF, 0x0A, 0x46, 0x8A] ∧
    (encodeFrame cfgLiteral 0x7ABCDEF0 0 [] zeros).toList.take 4 = [0xDE, 0x0B, 0x57, 0x9B] := by decide

def x3 : Image := #v[0x24, 0x7F, 0xAB, 0xCD, 0xFF, 0x30, 0x31, 0x32, 0x33, 0x34, 0x35, 0x36, 0x37]
def x4 : Image := #v[0x24, 0x63, 0x12, 0x34, 0x08, 0, 1, 2, 3, 4, 5, 6, 7]
def x5 : Image := #v[0x91, 0xA8, 0x56, 0x78, 0x48, 0, 1, 2, 3, 4, 5, 6, 7]

theorem test_decode_frame :
    decodeId cfg frame 0x08 = 0x40000123 ∧ decodeId cfg x3 0 = 0x248FABCD ∧ decodeId cfg x4 1 = 0x123 ∧
    decodeId cfg x5 0 = 0x32345678 ∧ (decodeLen frame, decodeLen x3, decodeLen x4, decodeLen x5) = (2, 15, 8, 8) ∧
    receivedBytes x3 = [0x30, 0x31, 0x32, 0x33, 0x34, 0x35, 0x36, 0x37] := by decide

theorem test_decode_frame_defect :
    decodeId cfgDefect frame 0x08 = 0x123 ∧ decodeId cfgDefect x3 0 = 0x248FABCD ∧
    decodeId cfgDefect x4 1 = 0x648F1234 ∧ decodeId cfgDefect x5 0 = 0x48D := by decide

/-- A RECEIVE of two bytes leaves the other six of `DOUT` (R72). -/
theorem test_dout_kept :
    (copyOut (receivedBytes frame) 0 (Vector.replicate 8 0x55)).toList =
      [0xDE, 0xAD, 0x55, 0x55, 0x55, 0x55, 0x55, 0x55] := by decide

/-! ## Commands: 95 sections 3, 4 and 6 -/

/-- W7: accepted, two bytes read, the image in place. -/
theorem test_transmit_accepted :
    (after (exec (.transmit 0 2 0x123) { idle with din := [0xDE, 0xAD] })).map
      (fun s => (s.phase, s.buf.toList.take 7, s.trace)) =
      some (1, [0x24, 0x60, 0, 0, 2, 0xDE, 0xAD], [.dinRead 0, .dinRead 1]) := by decide

/-- `LEN` 12 with seven bytes is DATA_UNDERRUN, nothing read. -/
theorem test_transmit_underrun :
    (after (exec (.transmit 0 12 0) { idle with din := eight.take 7 })).map
      (fun s => (s.phase, s.faultReg, s.trace)) = some (7, 3, []) := by decide

theorem test_receive_accepted :
    (after (exec (.receive 1) { idle with result := some 0, idOut := some 5 })).map
      (fun s => (s.phase, s.cmdSlot, s.result, s.idOut)) = some (3, some 1, none, none) := by decide

/-- F3: REENTRY beats everything. -/
theorem test_receive_reentry :
    (after (exec (.receive 3) (busy 2 0 0 true none))).map (fun s => (s.phase, s.faultReg, s.await, s.orphans)) =
      some (7, 4, false, []) := by decide

/-- F1: ILLEGAL_COMMAND beats INVALID_SLOT; F2: INVALID_SLOT beats DATA_UNDERRUN. -/
theorem test_fault_priority :
    (after (step (withTurn (.command 0xB000 0 []) idle))).map (·.faultReg) = some 1 ∧
    (after (step (withTurn (.command 0x3002 0 []) idle))).map (·.faultReg) = some 2 := by decide

/-- F4: a command in FAULTED takes no step. -/
theorem test_faulted_ignores :
    (after (step (withTurn (.command 0x4000 0 []) faulted))).map (fun s => (s.phase, s.faultReg, s.cmdOp)) =
      some (7, 1, none) := by decide

/-- F6: reset leaves FAULTED. -/
theorem test_reset_recovers :
    (after (step (withTurn .reset faulted))).map (fun s => (s.phase, s.faultReg, s.trace)) = some (0, 0, []) := by decide

/-! ## The sequencer's turns: 95 section 4, one step each -/

/-- W7: the LOAD_TX header for slot 0, and the 13 bytes. -/
theorem test_issue_load :
    (after (step (busy 1 0 0 false none))).map (fun s => (s.await, s.port)) =
      some (true, some ⟨0x00000000, [0x24, 0x60, 0, 0, 2, 0xDE, 0xAD, 0, 0, 0, 0, 0, 0]⟩) := by decide

theorem test_issue_request :
    (after (step (busy 2 0 0 false none))).bind (·.port) = some ⟨0x20000000, []⟩ := by decide

theorem test_issue_read :
    (after (step (busy 3 1 1 false none))).bind (·.port) = some ⟨0x48000000, []⟩ := by decide

/-- S11: the control-status register of slot 1. -/
theorem test_issue_status :
    (after (step (busy 4 1 1 false none))).bind (·.port) = some ⟨0x60700000, []⟩ := by decide

/-- S4's last consume step. -/
theorem test_receive_done :
    (after (step (busy 4 1 0 true (some (.okByte 0x08))))).map
      (fun s => (s.result, s.idOut, s.lenOut, s.trace)) =
      some (some 0, some 0x40000123, some 2,
        [.resp (.okByte 0x08), .doutWrite 0 0xDE, .doutWrite 1 0xAD, .done 0]) := by decide

/-- S2: the failure ends the command, unchanged. -/
theorem test_load_fails :
    (after (step (busy 1 0 0 true (some (.fail failure))))).map (fun s => (s.phase, s.result, s.failval, s.trace)) =
      some (0, some 1, some failure, [.resp (.fail failure), .done 1]) := by decide

/-- S7: a response of another shape. -/
theorem test_bad_response :
    (after (step (busy 1 0 0 true (some (.okByte 0))))).map (fun s => (s.phase, s.faultReg, s.trace)) =
      some (7, 5, [.resp (.okByte 0)]) := by decide

/-- S10: unanswered, the block waits. -/
theorem test_unanswered :
    (after (step (busy 1 0 0 true none))).map (fun s => (s.phase, s.await, s.trace)) = some (1, true, []) := by decide

/-! ## Transactions: 95 section 5 -/

theorem test_loadTx :
    (after (exec (.loadTx 1 frame) idle)).map (fun s => (s.env.txb.toList, s.env.taken)) =
      some ([zeros, frame, zeros], 1) := by decide

theorem test_reqSend :
    (after (exec (.reqSend 2) idle)).map (·.env.txreq.toList) = some [false, false, true] := by decide

theorem test_readRx :
    (after (exec (.readRx 0) { idle with requester := .software })).map (·.softwareRsp) =
      some (some (.okBytes frame)) := by decide

theorem test_readReg :
    (after (exec (.readReg 0x70) { busy 4 1 1 true none with requester := .block })).map (·.rspIn) =
      some (some (.okByte 0x08)) := by decide

/-- A register that nothing has written has some value, and keeps it. -/
theorem test_readReg_open :
    (after (exec (.readReg 0x33) { idle with requester := .software })).map
      (fun s => (s.softwareRsp, readCell s.env.reg 0x33)) =
      some (some (.okByte (Config.drawByte 89)), some (Config.drawByte 89)) := rfl

theorem test_writeReg :
    (after (exec (.writeReg 0x0F 0x80) idle)).map (·.env.reg) =
      some [(0x0F, 0x80), (0x2B, 0x3C), (0x70, 0x08)] := by decide

/-- The four MODIFY_REG rows of 95 section 5. -/
theorem test_modifyReg :
    (after (exec (.modifyReg 0x0F 0xE0 0x00) idle)).bind (fun s => readCell s.env.reg 0x0F) = some 0x07 ∧
    (after (exec (.modifyReg 0x0F 0x00 0xFF) idle)).bind (fun s => readCell s.env.reg 0x0F) = some 0x87 ∧
    (after (exec (.modifyReg 0x0F 0xFF 0x5A) idle)).bind (fun s => readCell s.env.reg 0x0F) = some 0x5A ∧
    (after (exec (.modifyReg 0x2B 0x0F 0xA5) idle)).bind (fun s => readCell s.env.reg 0x2B) = some 0x35 := by decide

/-- A scheduled failure is answered, and the effect left out (R93). -/
theorem test_scheduled_failure :
    (after (exec (.writeReg 0x0F 0x80)
      { idle with requester := .software, env := { idle.env with fails := [(0, failure)] } })).map
      (fun s => (s.softwareRsp, readCell s.env.reg 0x0F, s.env.taken)) =
      some (some (.fail failure), some 0x87, 1) := by decide

/-! ## The assembler: R122 to R127 -/

theorem test_assemble :
    assembleText "transmit(TxB0, id=0x123, data=[0xDE,0xAD], length=2)" = some ⟨0x0002, 0x123, [0xDE, 0xAD]⟩ ∧
    assembleText "transmit(TxB0, id=0x1FFFFFFF|EFF_FLAG, data=[], length=0)" = some ⟨0x0000, 0x3FFFFFFF, []⟩ ∧
    assembleText "transmit(TxB1, 0x7FF|RTR_FLAG, [], 0)" = some ⟨0x1000, 0x400007FF, []⟩ ∧
    assembleText "receive(RxB1)" = some ⟨0x5000, 0, []⟩ := by decide

theorem test_assemble_refuses :
    assembleText "transmit(TxB3, id=0, data=[], length=0)" = none ∧
    assembleText "transmit(TxB0, id=0x100000000, data=[], length=0)" = none ∧
    assembleText "transmit(TxB0, id=0, data=[1], length=2)" = none ∧ assembleText "receive(RxB2)" = none := by decide

theorem test_disassemble :
    renderCommand ⟨0x0002, 0x123, [0xDE, 0xAD]⟩ = "transmit(TxB0, id=0x123, data=[0xDE, 0xAD], length=2)" ∧
    renderCommand ⟨0x5000, 0, []⟩ = "receive(RxB1)" ∧ renderCommand ⟨0x8000, 0, []⟩ = ".illegal 0x8000" ∧
    renderTransaction ⟨0xA00FE000, []⟩ = some "MODIFY_REG(0x0F, 0xE0, 0x00)" := by decide

/-! ## Witnesses: the hypotheses of each obligation, met together -/

theorem witness_StepRunsDecodedCommand :
    (withTurn (.command 0x0002 0x123 eight) idle).agenda = .command 0x0002 0x123 eight :: [] ∧
    decodeCommand 0x0002 0x123 = .ok (.transmit 0 2 0x123) := by decide

theorem witness_StepRunsDecodedTransaction :
    decodeTransaction (readRegWord 0x70) = .ok (.readReg 0x70) ∧
    ((withTurn .serve { idle with port := some (readRegWord 0x70) }).agenda = .serve :: [] ∧
      (withTurn .serve { idle with port := some (readRegWord 0x70) }).port = some (readRegWord 0x70)) ∧
    (withTurn (.software (readRegWord 0x70)) idle).agenda = .software (readRegWord 0x70) :: [] ∧
    ((withTurn (.serveOrphan 0) { idle with orphans := [readRegWord 0x70] }).agenda = .serveOrphan 0 :: [] ∧
      (withTurn (.serveOrphan 0) { idle with orphans := [readRegWord 0x70] }).orphans[0]? =
        some (readRegWord 0x70)) := by decide

theorem witness_DecodeEncodeRoundTrip :
    (Instr.transmit 2 0xFF 0xFFFFFFFF).wellFormed = true ∧ (Instr.receive 1).wellFormed = true ∧
    (Instr.loadTx 2 frame).wellFormed = true ∧ (Instr.reqSend 2).wellFormed = true ∧
    (Instr.readRx 1).wellFormed = true ∧ (Instr.readReg 0xFF).wellFormed = true ∧
    (Instr.writeReg 0xFF 0xFF).wellFormed = true ∧ (Instr.modifyReg 0xFF 0xFF 0xFF).wellFormed = true := by decide

theorem witness_EncodeDecodeOneWord :
    decodeTransaction ⟨0xA0FFFFFF, []⟩ = .ok (.modifyReg 0xFF 0xFF 0xFF) ∧
    (decodeCommand 0x30FF 0xFFFFFFFF = .ok (.transmit 3 0xFF 0xFFFFFFFF) ∧
      (0x30FF : BitVec 16).extractLsb' 14 2 = 0) ∧
    decodeCommand 0x7000 5 = .ok (.receive 3) := by decide

/-- One state and word for each branch of the chain, the data check at both sides of its bound. -/
theorem witness_AcceptanceChecksInOrder :
    codesWritten (withTurn (.command 0x4000 0 []) faulted) ∧
    (codesWritten (busy 4 1 1 true none) ∧ (busy 4 1 1 true none).phase ≠ 7 ∧ (busy 4 1 1 true none).phase ≠ 0) ∧
    (codesWritten idle ∧ idle.phase = 0 ∧ 2 ≤ ((0xB000 : BitVec 16).extractLsb' 14 2).toNat ∧
      (0x0100 : BitVec 16).extractLsb' 8 4 ≠ 0 ∧ (0x4001 : BitVec 16).extractLsb' 0 8 ≠ 0 ∧
      2 < ((0x3002 : BitVec 16).extractLsb' 12 2).toNat ∧ 1 < ((0x6000 : BitVec 16).extractLsb' 12 2).toNat ∧
      (eight.take 7).length < min ((0x200C : BitVec 16).extractLsb' 0 8).toNat 8 ∧
      ¬ eight.length < min ((0x20FF : BitVec 16).extractLsb' 0 8).toNat 8) := by decide

theorem faulted_agree : RegistersAgree faulted where
  phase_written := by decide
  fault_written := by decide
  fault_iff_faulted := by decide
  await_in_progress := by decide
  response_awaited := by decide
  port_is_phase := by decide
  transmit_latched := by decide
  receive_latched := by decide
  outputs_pending := by decide
  idle_unwritten := by decide
  outputs_match := by decide

theorem witness_FaultedIsSticky :
    faulted.phase = 7 ∧ (nextTurn faulted).1 ≠ .reset ∧ (∃ t, step faulted = .next t) ∧ RegistersAgree faulted :=
  ⟨by decide, by decide, ⟨_, rfl⟩, faulted_agree⟩

theorem witness_FaultRegisterWriters :
    (∃ t, step (withTurn .reset faulted) = .next t ∧ t.faultReg ≠ (withTurn .reset faulted).faultReg) ∧
    (∃ t, step (withTurn (.command 0x3000 0 []) idle) = .next t ∧
      t.faultReg ≠ (withTurn (.command 0x3000 0 []) idle).faultReg) :=
  ⟨⟨_, rfl, by decide⟩, ⟨_, rfl, by decide⟩⟩

theorem witness_TransmitIsAccepted :
    ready idle ∧ (2 : BitVec 2).toNat ≤ 2 ∧ min (0xFF : Byte).toNat 8 ≤ idle.din.length := by decide

theorem witness_ReceiveIsAccepted : ready idle ∧ (1 : BitVec 2).toNat ≤ 1 := by decide

theorem witness_CommandFrame :
    (isTransaction (.transmit 2 8 0) = false ∧ ∃ t, exec (.transmit 2 8 0) idle = .next t) ∧
    (isTransaction (.receive 1) = false ∧ ∃ t, exec (.receive 1) idle = .next t) :=
  ⟨⟨rfl, _, rfl⟩, ⟨rfl, _, rfl⟩⟩

/-- A block that has just received. The data bytes are exactly as many as a TRANSMIT of `LEN` 255, and of `LEN` 3, needs. -/
def received : State := { idle with result := some 0, idOut := some 5, lenOut := some 8, cmdOp := some 1 }

theorem witness_AcceptanceKeepsNothing :
    isTransaction (.transmit 2 0xFF 0x123) = false ∧ (Instr.transmit 2 0xFF 0x123).wellFormed = true ∧
    isTransaction (.receive 1) = false ∧ (Instr.receive 1).wellFormed = true ∧ ready idle ∧ ready received ∧
    idle.cfg = received.cfg ∧ idle.din = received.din ∧ idle.draws = received.draws ∧
    min (0xFF : Byte).toNat 8 ≤ idle.din.length ∧
    min (3 : Byte).toNat 8 ≤ ({ idle with din := [1, 2, 3] } : State).din.length := by decide

theorem witness_LoadTxStoresImage : (2 : BitVec 2).toNat < 3 ∧ noFailure idle := by decide

theorem witness_ReqSendSetsRequest : (0 : BitVec 2).toNat < 3 ∧ noFailure idle := by decide

theorem witness_ReadRxAnswersBuffer : (1 : BitVec 2).toNat < 2 ∧ noFailure idle := by decide

/-- A register that holds a fixed value, and one that does not. -/
theorem witness_ReadRegAnswersRegister :
    noFailure idle ∧ readCell idle.env.reg (0x70 : Byte).toNat = some 0x08 ∧
    readCell idle.env.reg (0x33 : Byte).toNat = none := by decide

theorem witness_WriteRegStoresValue : noFailure idle := by decide

theorem witness_ModifyRegMasksValue :
    noFailure idle ∧ readCell idle.env.reg (0x2B : Byte).toNat = some 0x3C ∧
    (0x0F : Byte).getLsbD 3 = true ∧ (0x0F : Byte).getLsbD 4 = false := by decide

theorem witness_ScheduledFailureIsAnswered :
    isTransaction (.readRx 1) = true ∧ (Instr.readRx 1).wellFormed = true ∧
    ({ idle with env := { idle.env with fails := [(0, failure)] } } : State).env.fails.lookup
      ({ idle with env := { idle.env with fails := [(0, failure)] } } : State).env.taken = some failure := by decide

theorem witness_ResponseGoesToRequester :
    (({ busy 1 0 0 true none with requester := .block } : State).requester = .block ∧
      ({ busy 1 0 0 true none with requester := .block } : State).await = true ∧
      ({ busy 1 0 0 true none with requester := .block } : State).rspIn = none) ∧
    (({ idle with requester := .block } : State).requester = .block ∧
      ({ idle with requester := .block } : State).await = false) ∧
    ({ idle with requester := .software } : State).requester = .software ∧ idle.requester = .nobody := by decide

theorem witness_TransactionFrame :
    (isTransaction (.loadTx 2 frame) = true ∧ ∃ t, exec (.loadTx 2 frame) idle = .next t) ∧
    (isTransaction (.reqSend 2) = true ∧ ∃ t, exec (.reqSend 2) idle = .next t) ∧
    (isTransaction (.readRx 1) = true ∧ ∃ t, exec (.readRx 1) idle = .next t) ∧
    (isTransaction (.readReg 0x33) = true ∧ ∃ t, exec (.readReg 0x33) idle = .next t) ∧
    (isTransaction (.writeReg 0x33 1) = true ∧ ∃ t, exec (.writeReg 0x33 1) idle = .next t) ∧
    (isTransaction (.modifyReg 0x33 1 1) = true ∧ ∃ t, exec (.modifyReg 0x33 1 1) idle = .next t) :=
  ⟨⟨rfl, _, rfl⟩, ⟨rfl, _, rfl⟩, ⟨rfl, _, rfl⟩, ⟨rfl, _, rfl⟩, ⟨rfl, _, rfl⟩, ⟨rfl, _, rfl⟩⟩

theorem witness_NoSuchBufferIsRefused :
    3 ≤ (3 : BitVec 2).toNat ∧ 2 ≤ (2 : BitVec 2).toNat ∧ 2 ≤ (3 : BitVec 2).toNat := by decide

theorem witness_IssueStepOfEachPhase :
    (∀ p ∈ [1, 2, 3, 4], codesWritten (busy p 1 1 false none) ∧ (nextTurn (busy p 1 1 false none)).1 = .block ∧
      (busy p 1 1 false none).await = false ∧ (busy p 1 1 false none).cmdSlot = some 1 ∧
      (busy p 1 1 false none).phase = p) ∧ (1 : BitVec 2).toNat < 2 := by decide

theorem witness_SuccessArmOfEachPhase :
    ∀ c ∈ [(1, Response.ok), (2, .ok), (3, .okBytes frame), (4, .okByte 8)],
      codesWritten (busy c.1 1 1 true (some c.2)) ∧ (nextTurn (busy c.1 1 1 true (some c.2))).1 = .block ∧
      (busy c.1 1 1 true (some c.2)).await = true ∧ (busy c.1 1 1 true (some c.2)).phase = c.1 ∧
      (busy c.1 1 1 true (some c.2)).rspIn = some c.2 := by decide

theorem witness_WrongShapeRaisesBadResponse :
    (∀ c ∈ [(1, Response.okByte 0), (2, .okBytes frame), (3, .ok), (4, .okBytes frame)],
      codesWritten (busy c.1 1 1 true (some c.2)) ∧ (nextTurn (busy c.1 1 1 true (some c.2))).1 = .block ∧
      (busy c.1 1 1 true (some c.2)).await = true ∧ (busy c.1 1 1 true (some c.2)).phase = c.1 ∧
      (busy c.1 1 1 true (some c.2)).rspIn = some c.2) ∧
    (∀ f, Response.okByte 0 ≠ .fail f) ∧ Response.okByte 0 ≠ .ok ∧
    (∀ f, Response.okBytes frame ≠ .fail f) ∧ Response.okBytes frame ≠ .ok ∧ (∀ v, Response.okBytes frame ≠ .okByte v) ∧
    (∀ f, Response.ok ≠ .fail f) ∧ (∀ b, Response.ok ≠ .okBytes b) :=
  ⟨by decide, nofun, nofun, nofun, nofun, nofun, nofun, nofun⟩

theorem witness_FailureEndsCommand :
    ∀ c ∈ [((1 : BitVec 3), (0 : BitVec 1)), (2, 0), (3, 1), (4, 1)],
      codesWritten (busy c.1 c.2 1 true (some (.fail failure))) ∧
      (nextTurn (busy c.1 c.2 1 true (some (.fail failure)))).1 = .block ∧
      inProgress (busy c.1 c.2 1 true (some (.fail failure))) ∧
      (busy c.1 c.2 1 true (some (.fail failure))).await = true ∧
      (busy c.1 c.2 1 true (some (.fail failure))).rspIn = some (.fail failure) ∧
      (busy c.1 c.2 1 true (some (.fail failure))).cmdOp = some c.2 := by decide

theorem witness_BlockWithoutStepWaits :
    (codesWritten idle ∧ (nextTurn idle).1 = .block ∧ idle.phase = 0) ∧
    (codesWritten faulted ∧ (nextTurn faulted).1 = .block ∧ faulted.phase = 7) ∧
    (codesWritten (busy 4 1 1 true none) ∧ (nextTurn (busy 4 1 1 true none)).1 = .block ∧
      (busy 4 1 1 true none).await = true ∧ (busy 4 1 1 true none).rspIn = none) := by decide

theorem witness_StandardIdImage : (0xDFFFFFFF : LogicalId).getLsbD 29 = false := by decide

theorem witness_ExtendedIdImageInverse :
    (0x32345678 : LogicalId).getLsbD 29 = true ∧ cfg.txExtLayout = .inverse := by decide

theorem witness_ExtendedIdImageLiteral :
    (0x32345678 : LogicalId).getLsbD 29 = true ∧ cfgLiteral.txExtLayout = .literal := by decide

theorem witness_TransmitDlcByte : 7 < 8 ∧ cfg.txDlcMask = .lowNibble ∧ cfgWhole.txDlcMask ≠ .lowNibble := by decide

/-- The last byte copied and the first one that is not. -/
theorem witness_TransmitDataBytes :
    min (0xFF : Byte).toNat 8 ≤ eight.length ∧ 7 < min (0xFF : Byte).toNat 8 ∧
    min (7 : Byte).toNat 8 ≤ eight.length ∧ ¬ 7 < min (7 : Byte).toNat 8 := by decide

theorem witness_OversizedLengthReadsEight :
    ready idle ∧ (2 : BitVec 2).toNat ≤ 2 ∧ 9 ≤ (9 : Byte).toNat ∧ 9 ≤ (0xFF : Byte).toNat ∧
    8 ≤ idle.din.length := by decide

theorem witness_FlagTestModes :
    7 < 8 ∧ cfg.rxFlagTest = .correct ∧ cfgDefect.rxFlagTest = .precedenceDefect := by decide

/-- Each range of bits of the received id, under a set and under a clear extended bit. -/
theorem witness_ReceivedIdBits :
    (31 < 32 ∧ 18 < 32 ∧ 16 < 32) ∧
    flagTest cfg x5[1] ((1 : Byte) <<< exideIndex cfg) = true ∧
    flagTest cfg x4[1] ((1 : Byte) <<< exideIndex cfg) = false := by decide

theorem witness_DecoderRange : (decodeId cfg x4 0xFF).getLsbD 29 = false ∧ 11 ≤ 28 ∧ 28 ≤ 28 := by decide

/-- The last byte copied and the first one that is not. -/
theorem witness_ReceivedDataBytes :
    (1 < 8 ∧ 1 < min (frame[4].toNat % 16) 8) ∧ (2 < 8 ∧ ¬ 2 < min (frame[4].toNat % 16) 8) ∧
    7 < min (x3[4].toNat % 16) 8 := by decide

/-- Two standard images that differ in `EID8`, `EID0`, the low bits of `SIDL` and the bytes past the length. -/
def unread : Image := #v[0x24, 0x67, 0x99, 0x88, 0x02, 0xDE, 0xAD, 9, 9, 9, 9, 9, 9]

theorem witness_DecoderReadsOnlyNamedBits :
    cfg.rxFlagTest = .correct ∧ frame ≠ unread ∧ frame[0] = unread[0] ∧
    (∀ k, 5 ≤ k → frame[1].getLsbD k = unread[1].getLsbD k) ∧
    frame[1].getLsbD (exideIndex cfg) = unread[1].getLsbD (exideIndex cfg) ∧
    frame[1].getLsbD (exideIndex cfg) = false ∧
    (∀ k, k < 4 → frame[4].getLsbD k = unread[4].getLsbD k) ∧
    (∀ k (_ : k < 8), k < min (frame[4].toNat % 16) 8 → frame[5 + k] = unread[5 + k]) ∧
    (0xF7 : Byte).getLsbD cfg.rxrtrBit.val = (0x00 : Byte).getLsbD cfg.rxrtrBit.val := by
  refine ⟨by decide, by decide, by decide, fun k hk => ?_, by decide, by decide, by decide, by decide, by decide⟩
  by_cases h : k < 8
  · revert h hk; revert k; decide
  · rw [BitVec.getLsbD_of_ge _ _ (by omega), BitVec.getLsbD_of_ge _ _ (by omega)]

theorem witness_StandardRoundTrip :
    cfg.rxFlagTest = .correct ∧ (0x7FF : LogicalId).toNat ≤ 0x7FF ∧ (8 : Byte).toNat ≤ 8 ∧
    (8 : Byte).toNat ≤ eight.length ∧ (0xF7 : Byte).getLsbD cfg.rxrtrBit.val = false := by decide

theorem witness_ExtendedRoundTrip :
    cfg.rxFlagTest = .correct ∧ cfg.txExtLayout = .inverse ∧ (0x1FFFFFFF : LogicalId).toNat ≤ 0x1FFFFFFF ∧
    (8 : Byte).toNat ≤ 8 ∧ (8 : Byte).toNat ≤ eight.length ∧
    (0xF7 : Byte).getLsbD cfg.rxrtrBit.val = false := by decide

theorem witness_LiteralLayoutRotates :
    cfgLiteral.rxFlagTest = .correct ∧ cfgLiteral.txExtLayout = .literal ∧
    (0x1FFFFFFF : LogicalId).toNat ≤ 0x1FFFFFFF ∧ (0xF7 : Byte).getLsbD cfgLiteral.rxrtrBit.val = false := by decide

theorem witness_TransmitRunIsMacroStep :
    ready idle ∧ (2 : BitVec 2).toNat ≤ 2 ∧ min (0xFF : Byte).toNat 8 ≤ eight.length ∧
    ({ idle with agenda := answeredSchedule (commandWord 0 2 0xFF) 0x123 eight .ok (.fail failure) ++ [.reset] }
      : State).agenda =
      answeredSchedule (commandWord 0 2 0xFF) 0x123 eight (Answer.toOk (.ok ())) (Answer.toOk (.error failure)) ++
        [.reset] := by decide

theorem witness_ReceiveRunIsMacroStep :
    ready idle ∧ (1 : BitVec 2).toNat < 2 ∧
    ({ idle with agenda := answeredSchedule (commandWord 1 1 0) 0 [] (.okBytes frame) (.okByte 8) ++ [.reset] }
      : State).agenda =
      answeredSchedule (commandWord 1 1 0) 0 [] (Answer.toBytes (.ok frame)) (Answer.toByte (.ok 8)) ++
        [.reset] := by decide

theorem witness_ServedTransmitLoadsAndRequests :
    ready idle ∧ (2 : BitVec 2).toNat < 3 ∧ min (0xFF : Byte).toNat 8 ≤ eight.length ∧ idle.env.fails = [] ∧
    ({ idle with agenda := servedSchedule (commandWord 0 2 0xFF) 0x123 eight } : State).agenda =
      servedSchedule (commandWord 0 2 0xFF) 0x123 eight ++ [] := by decide

/-- With nothing after the command, and with a further command after it. -/
theorem witness_AnsweredCommandEnds :
    atRest idle ∧
    (∀ rest ∈ [[], [Turn.command 0x5000 0 []]],
      ({ idle with agenda := answeredSchedule 0x4000 0 [] .ok (.okByte 8) ++ rest } : State).agenda =
        answeredSchedule 0x4000 0 [] .ok (.okByte 8) ++ rest) := by decide

/-- A good end, and the same block with a command still to come, which is none (R276). -/
theorem test_endedWell : endedWell idle ∧ ¬ endedWell (withTurn (.command 0x5000 0 []) idle) := by decide

theorem witness_ResetFromAnyState :
    (withTurn .reset { faulted with port := some (readRegWord 0x70) }).agenda = .reset :: [] := by decide

/-- A RECEIVE about to consume its second response, with the trace that brought it there (S11). -/
def receiving : State :=
  { busy 4 1 1 true (some (.okByte 8)) with
    trace := [.issue (readRxWord 1), .resp (.okBytes frame), .issue (readRegWord 0x70)] }

/-- The caller changes `DOUT` between commands. -/
def callerWrites : State := withTurn (.setDout (Vector.replicate 8 0)) idle

theorem callerWrites_agree : RegistersAgree callerWrites where
  phase_written := by decide
  fault_written := by decide
  fault_iff_faulted := by decide
  await_in_progress := by decide
  response_awaited := by decide
  port_is_phase := by decide
  transmit_latched := by decide
  receive_latched := by decide
  outputs_pending := by decide
  idle_unwritten := by decide
  outputs_match := by decide

theorem receiving_agree : RegistersAgree receiving where
  phase_written := by decide
  fault_written := by decide
  fault_iff_faulted := by decide
  await_in_progress := by decide
  response_awaited := by decide
  port_is_phase := by decide
  transmit_latched := by decide
  receive_latched := by decide
  outputs_pending := by decide
  idle_unwritten := by decide
  outputs_match := by decide

theorem receiving_good : GoodState receiving where
  registers := receiving_agree
  orphans := by intro t h; exact absurd h (by simp [receiving, busy, idle, State.reset])
  trace :=
    ⟨.controlSent 1, by decide, fun h => absurd h (by decide), fun h => absurd h (by decide),
      fun h => absurd h (by decide), fun h => absurd h (by decide), fun _ => ⟨1, by decide, by decide⟩⟩
  memory := by decide

theorem witness_StepKeepsGoodState : GoodState receiving ∧ ∃ t, step receiving = .next t :=
  ⟨receiving_good, _, rfl⟩

theorem witness_GoodStateRuns : GoodState receiving := receiving_good

theorem witness_ConfigurationIsFixed : ∃ t, step (withTurn (.command 0x5000 0 []) idle) = .next t := ⟨_, rfl⟩

theorem witness_BlockNeverTouchesController :
    (∃ t, step (busy 1 0 0 false none) = .next t ∧ (nextTurn (busy 1 0 0 false none)).1 = .block) ∧
    (∃ t, step (withTurn .reset idle) = .next t ∧ (nextTurn (withTurn .reset idle)).1 = .reset) ∧
    (∃ t, step (withTurn (.command 2 0 eight) idle) = .next t ∧
      (nextTurn (withTurn (.command 2 0 eight) idle)).1 = .command 2 0 eight) :=
  ⟨⟨_, rfl, rfl⟩, ⟨_, rfl, rfl⟩, ⟨_, rfl, rfl⟩⟩

theorem witness_DinReadOnlyAtAcceptance :
    ∃ t, step (withTurn (.command 8 0 eight) idle) = .next t ∧
      (withTurn (.command 8 0 eight) idle).trace.count (.dinRead 7) < t.trace.count (.dinRead 7) :=
  ⟨_, rfl, by decide⟩

/-- The caller's own change, and the completion of a RECEIVE. -/
theorem witness_DoutWriters :
    (RegistersAgree callerWrites ∧ ∃ t, step callerWrites = .next t ∧ t.dout ≠ callerWrites.dout) ∧
    (RegistersAgree receiving ∧ ∃ t, step receiving = .next t ∧ t.dout ≠ receiving.dout) :=
  ⟨⟨callerWrites_agree, _, rfl, by decide⟩, ⟨receiving_agree, _, rfl, by decide⟩⟩

theorem witness_TraceIsNeverRead :
    (nextTurn (busy 1 0 0 false none)).1 ≠ .reset ∧ ∃ t, step (busy 1 0 0 false none) = .next t :=
  ⟨by decide, _, rfl⟩

theorem witness_CallerReadsWrittenOnly :
    ((withTurn (.read .result) { idle with result := some 1 }).agenda = .read .result :: [] ∧
      (withTurn (.read .failval) idle).agenda = .read .failval :: [] ∧
      (withTurn (.read .idOut) { idle with idOut := some 5 }).agenda = .read .idOut :: [] ∧
      (withTurn (.read .lenOut) idle).agenda = .read .lenOut :: []) := by decide

theorem witness_DisassemblyInvertsAssembly :
    assemble (.transmit 2 (.or (.number 0x1FFFFFFF) .effFlag) [0xFF] 1) = some ⟨0x2001, 0x3FFFFFFF, [0xFF]⟩ ∧
    assemble (.receive 1) = some ⟨0x5000, 0, []⟩ := by decide

end Sys2Proof.Tests
end

section
/-! PROOFS. The scope of the model (00_scope.md): what a caller's read gives (R14), which turns a good state runs, and
which configurations are given (R8, R10). -/

namespace Sys2Proof.Machine

/-! A read by the caller (R14, R274). -/

/-- A read looks at the registers, not at the schedule. -/
@[simp] theorem readOut_keepTurns (r : OutRegister) (rest : List Turn) (s : State) :
    readOut r (keepTurns rest s) = readOut r s := by
  cases r <;> rfl

/-- A read that gives a value records it, and the turn is over. -/
theorem step_read_of_ok {s : State} {rest : List Turn} {r : OutRegister} {v : Seen} (h : s.agenda = .read r :: rest)
    (hr : readOut r s = .ok v) : step s = .next (recordSeen v (keepTurns rest s)) := by
  simp [step_of_cons h, takeTurn, callerRead, hr]

/-- A read that faults stops the machine. -/
theorem step_read_of_error {s : State} {rest : List Turn} {r : OutRegister} {f : Fault}
    (h : s.agenda = .read r :: rest) (hr : readOut r s = .error f) : step s = .fault f := by
  simp [step_of_cons h, takeTurn, callerRead, hr]

/-- A response register that may be unwritten, read by the caller: the fault of its name, or its value recorded. -/
theorem step_read_register {α : Type} {s : State} {rest : List Turn} {r : OutRegister} {name : RegisterName}
    {wrap : α → Seen} {o : Option α} (h : s.agenda = .read r :: rest)
    (hr : readOut r s = (readWritten name o).map wrap) :
    (o = none ∧ step s = .fault (.unwrittenRegister name)) ∨
    (∃ v, o = some v ∧ step s = .next { s with agenda := rest, seen := s.seen ++ [wrap v] }) := by
  cases o with
  | none => exact .inl ⟨rfl, step_read_of_error h hr⟩
  | some v => exact .inr ⟨v, rfl, step_read_of_ok h hr⟩

/-! The block's transactions (R221). -/

/-- A phase whose code is written is IDLE, FAULTED, or one of the four transaction phases (R33). -/
theorem inProgress_of_phase {s : State} (h5 : s.phase ≠ 5) (h6 : s.phase ≠ 6) (hi : s.phase ≠ Phase.idle)
    (hf : s.phase ≠ Phase.faulted) : inProgress s :=
  (by decide : ∀ p : BitVec 3, p ≠ 5 → p ≠ 6 → p ≠ Phase.idle → p ≠ Phase.faulted →
    (p = Phase.txLoad ∨ p = Phase.txRts) ∨ (p = Phase.rxBuf ∨ p = Phase.rxCtrl)) s.phase h5 h6 hi hf

/-- A receive slot has its control register (R8). -/
theorem rxctrlAddrOf_of_isRxSlot (c : Config) {slot : BitVec 2} (h : isRxSlot slot = true) :
    ∃ a, rxctrlAddrOf c slot = some a :=
  ⟨_, Vector.getElem?_eq_getElem (of_decide_eq_true h)⟩

/-- While a command is in progress the block has a transaction, of a kind and slot that it issues (R221). -/
theorem RegistersAgree.phaseTransaction_fromBlock {s : State} (h : RegistersAgree s) (hp : inProgress s) :
    ∃ t, phaseTransaction s = .ok t ∧ fromBlock s.cfg t := by
  rcases hp with hp | hp
  · obtain ⟨-, ⟨slot, hslot, htx⟩, -⟩ := h.transmit_latched hp
    rcases hp with hp | hp
    · exact ⟨loadTxWord slot s.buf, by simp [phaseTransaction, hslot, hp], _, decode_loadTxWord slot s.buf, htx⟩
    · exact ⟨reqSendWord slot, by simp [phaseTransaction, hslot, hp, Phase.txRts, Phase.txLoad], _,
        decode_reqSendWord slot, htx⟩
  · obtain ⟨-, ⟨slot, hslot, hrx⟩, -⟩ := h.receive_latched hp
    rcases hp with hp | hp
    · exact ⟨readRxWord slot, by simp [phaseTransaction, hslot, hp, Phase.rxBuf, Phase.txRts, Phase.txLoad], _,
        decode_readRxWord (of_decide_eq_true hrx), hrx⟩
    · obtain ⟨a, ha⟩ := rxctrlAddrOf_of_isRxSlot s.cfg hrx
      exact ⟨readRegWord a,
        by simp [phaseTransaction, hslot, hp, ha, Phase.rxCtrl, Phase.rxBuf, Phase.txRts, Phase.txLoad], _,
        decode_readRegWord a, slot, ha⟩

/-- The transaction on the port is one the block issues. -/
theorem RegistersAgree.port_fromBlock {s : State} {t : Transaction} (h : RegistersAgree s) (ht : s.port = some t) :
    fromBlock s.cfg t := by
  have hport := h.port_is_phase
  rw [ht] at hport
  split at hport
  · next hwait =>
    obtain ⟨t', hok, hfrom⟩ := h.phaseTransaction_fromBlock (h.await_in_progress hwait.1)
    rw [hok] at hport
    exact Option.some.inj hport ▸ hfrom
  · cases hport

/-- What the block issues names a buffer. -/
theorem wellFormed_of_issuable {c : Config} {i : Instr} (h : issuable c i) : i.wellFormed = true := by
  cases i with
  | transmit | receive => exact h.elim
  | loadTx | reqSend | readRx => exact h
  | readReg | writeReg | modifyReg => rfl

/-- The environment can carry out whatever the block issues. -/
theorem performTransaction_of_fromBlock {c : Config} {t : Transaction} (h : fromBlock c t) (who : Requester) (s : State) :
    ∃ s', performTransaction who t s = .next s' := by
  obtain ⟨i, hi, hissuable⟩ := h
  rcases performTransaction_cases who t s with ⟨e, he, -⟩ | ⟨j, hj, ⟨hbad, -⟩ | ⟨-, r, e, d, hnext, -⟩⟩
  · rw [hi] at he; cases he
  · obtain rfl := Except.ok.inj (hi.symm.trans hj)
    rw [wellFormed_of_issuable hissuable] at hbad; cases hbad
  · exact ⟨_, hnext⟩

/-! The block's turn. -/

theorem RegistersAgree.corruptRegister_none {s : State} (h : RegistersAgree s) : corruptRegister s = none :=
  (corruptRegister_none_iff s).2 ⟨h.phase_written.1, h.phase_written.2, h.fault_written⟩

/-- While a command is in progress `CMD_OP` is written (R35). -/
theorem RegistersAgree.cmdOp_written {s : State} (h : RegistersAgree s) (hp : inProgress s) :
    s.cmdOp = some CmdOp.transmit ∨ s.cmdOp = some CmdOp.receive :=
  hp.imp (fun ht => (h.transmit_latched ht).1) (fun hr => (h.receive_latched hr).1)

/-- A consume step stops the machine at no response, once `CMD_OP` is written. -/
theorem consumeStep_runs (r : Response) {s : State}
    (hop : s.cmdOp = some CmdOp.transmit ∨ s.cmdOp = some CmdOp.receive) : ∃ t, consumeStep r s = .next t := by
  rcases consumeStep_cases r s with ⟨f, -, h⟩ | ⟨-, -, h⟩ | ⟨-, -, h⟩ | ⟨b, -, -, h⟩ | ⟨v, -, -, h⟩ | ⟨h, -⟩
  · rcases hop with hop | hop
    · exact ⟨_, h.trans (completeFail_transmit f hop)⟩
    · exact ⟨_, h.trans (completeFail_receive f hop)⟩
  all_goals exact ⟨_, h⟩

/-- Where the registers agree the block's turn stops the machine in no phase. -/
theorem RegistersAgree.blockStep_runs {s : State} (h : RegistersAgree s) : ∃ t, blockStep s = .next t := by
  rcases blockStep_cases s with ⟨f, hf, -⟩ | ⟨-, -, hstay⟩ | ⟨-, hidle, hfaulted, hrun⟩
  · rw [h.corruptRegister_none] at hf; cases hf
  · exact ⟨_, hstay⟩
  · have hp : inProgress s := inProgress_of_phase h.phase_written.1 h.phase_written.2 hidle hfaulted
    rcases hrun with ⟨-, -, hwait⟩ | ⟨r, -, -, hconsume⟩ | ⟨-, hissue⟩
    · exact ⟨_, hwait⟩
    · exact hconsume ▸ consumeStep_runs r (h.cmdOp_written hp)
    · obtain ⟨t, ht, -⟩ := h.phaseTransaction_fromBlock hp
      exact ⟨issue t s, by simp [hissue, issueStep, ht]⟩

/-- Where the registers agree a presented command stops the machine at no word. -/
theorem RegistersAgree.presentCommand_runs {s : State} (h : RegistersAgree s) (cmdw : BitVec 16) (id : LogicalId)
    (din : List Byte) : ∃ t, presentCommand cmdw id din s = .next t := by
  rcases presentCommand_cases cmdw id din s with ⟨f, hf, -⟩ |
    ⟨-, ⟨-, hp⟩ | ⟨-, -, hp⟩ | ⟨-, ⟨_, -, -, hp⟩ | ⟨_, _, -, -, -, hp⟩ | ⟨_, -, -, hp⟩⟩⟩
  · rw [h.corruptRegister_none] at hf; cases hf
  all_goals exact ⟨_, hp⟩

/-! Every turn. -/

/-- A good state is good under every schedule. -/
theorem GoodState.keepTurns {s : State} (h : GoodState s) (rest : List Turn) : GoodState (keepTurns rest s) where
  registers := { h.registers with }
  orphans := h.orphans
  trace := h.trace
  memory := h.memory

/-- The two turns that can stop the machine in a good state: a read of an unwritten register (R14), and a transaction of
the surrounding software that is none or names no buffer. -/
theorem GoodState.takeTurn_cases {s : State} (h : GoodState s) (e : Turn) :
    (∃ t, takeTurn e s = .next t) ∨
    (∃ r f, e = .read r ∧ readOut r s = .error f ∧ takeTurn e s = .fault f) ∨
    (∃ t, e = .software t ∧ ∀ i, decodeTransaction t = .ok i → i.wellFormed = false) := by
  cases e with
  | block => exact .inl h.registers.blockStep_runs
  | command cmdw id din => exact .inl (h.registers.presentCommand_runs cmdw id din)
  | serve =>
    cases hport : s.port with
    | none => exact .inl ⟨s, by simp [takeTurn, serveBlock, hport]⟩
    | some t =>
      simpa [takeTurn, serveBlock, hport] using
        performTransaction_of_fromBlock (h.registers.port_fromBlock hport) .block s
  | serveOrphan n =>
    cases horphan : s.orphans[n]? with
    | none => exact .inl ⟨s, by simp [takeTurn, serveOrphan, horphan]⟩
    | some t =>
      simpa [takeTurn, serveOrphan, horphan] using
        performTransaction_of_fromBlock (h.orphans t (List.mem_of_getElem? horphan)) .nobody (dropOrphan n s)
  | software t =>
    rcases performTransaction_cases .software t s with ⟨e, he, -⟩ | ⟨i, hi, ⟨hbad, -⟩ | ⟨-, r, e, d, hnext, -⟩⟩
    · exact .inr (.inr ⟨t, rfl, fun i hi => by rw [he] at hi; cases hi⟩)
    · exact .inr (.inr ⟨t, rfl, fun j hj => Except.ok.inj (hi.symm.trans hj) ▸ hbad⟩)
    · exact .inl ⟨_, hnext⟩
  | read r =>
    cases hread : readOut r s with
    | ok v => exact .inl ⟨recordSeen v s, by simp [takeTurn, callerRead, hread]⟩
    | error f => exact .inr (.inl ⟨r, f, rfl, hread, by simp [takeTurn, callerRead, hread]⟩)
  | answer | changeTxb | changeRxb | changeReg | changeTxreq | setDin | setDout | reset => exact .inl ⟨_, rfl⟩

/-! The parameters of a configuration (R8, R10). -/

/-- The code of a number for `EXIDE_BIT`, where it is legal. -/
def exideBit? (n : Nat) : Option ExideBit :=
  if n = 2 then some .bit2 else if n = 3 then some .bit3 else if n = 4 then some .bit4 else none

/-- The code of a number for `DLC_RTR_BIT`, where it is legal. -/
def dlcRtrBit? (n : Nat) : Option DlcRtrBit :=
  if n = 4 then some .bit4 else if n = 5 then some .bit5
  else if n = 6 then some .bit6 else if n = 7 then some .bit7 else none

/-- The code of a byte for `TX_DLC_MASK`, where it is legal. -/
def txDlcMask? (m : Byte) : Option TxDlcMask :=
  if m = 0x0F then some .lowNibble else if m = 0xFF then some .wholeByte else none

/-- `EXIDE_BIT` has a code exactly in its range, and the code gives the number back. -/
theorem exideBit?_cases (n : Nat) :
    (∃ e, exideBit? n = some e ∧ (∀ c : Config, c.exideBit = e → exideIndex c = n) ∧ 2 ≤ n ∧ n ≤ 4) ∨
    (exideBit? n = none ∧ ¬ (2 ≤ n ∧ n ≤ 4)) := by
  by_cases h : 2 ≤ n ∧ n ≤ 4
  · obtain rfl | rfl | rfl : n = 2 ∨ n = 3 ∨ n = 4 := by omega
    all_goals exact .inl ⟨_, rfl, fun c hc => by simp [exideIndex, hc], by decide, by decide⟩
  · refine .inr ⟨?_, h⟩
    rw [exideBit?, if_neg (by omega), if_neg (by omega), if_neg (by omega)]

/-- `DLC_RTR_BIT` has a code exactly in its range, and the code gives the number back. -/
theorem dlcRtrBit?_cases (n : Nat) :
    (∃ d, dlcRtrBit? n = some d ∧ (∀ c : Config, c.dlcRtrBit = d → dlcRtrIndex c = n) ∧ 4 ≤ n ∧ n ≤ 7) ∨
    (dlcRtrBit? n = none ∧ ¬ (4 ≤ n ∧ n ≤ 7)) := by
  by_cases h : 4 ≤ n ∧ n ≤ 7
  · obtain rfl | rfl | rfl | rfl : n = 4 ∨ n = 5 ∨ n = 6 ∨ n = 7 := by omega
    all_goals exact .inl ⟨_, rfl, fun c hc => by simp [dlcRtrIndex, hc], by decide, by decide⟩
  · refine .inr ⟨?_, h⟩
    rw [dlcRtrBit?, if_neg (by omega), if_neg (by omega), if_neg (by omega), if_neg (by omega)]

/-- `TX_DLC_MASK` has a code exactly for its two legal bytes, and the code gives the byte back. -/
theorem txDlcMask?_cases (m : Byte) :
    (∃ k, txDlcMask? m = some k ∧ (∀ c : Config, c.txDlcMask = k → txDlcMaskByte c = m) ∧ (m = 0x0F ∨ m = 0xFF)) ∨
    (txDlcMask? m = none ∧ ¬ (m = 0x0F ∨ m = 0xFF)) := by
  by_cases h : m = 0x0F ∨ m = 0xFF
  · obtain rfl | rfl := h
    all_goals exact .inl ⟨_, rfl, fun c hc => by simp [txDlcMaskByte, hc], by decide⟩
  · obtain ⟨hlow, hwhole⟩ := not_or.mp h
    exact .inr ⟨by rw [txDlcMask?, if_neg hlow, if_neg hwhole], h⟩

section configuring
variable {exide dlcRtr rxrtr : Nat} {mask : Byte} (layout : TxExtLayout) (test : RxFlagTest) (addr : Vector Byte 2)

/-- Legal parameters give their configuration. -/
theorem configure_of_legal {e : ExideBit} {d : DlcRtrBit} {m : TxDlcMask} (he : exideBit? exide = some e)
    (hd : dlcRtrBit? dlcRtr = some d) (hm : txDlcMask? mask = some m) (hr : rxrtr < 8) :
    configure exide dlcRtr rxrtr mask layout test addr = .ok ⟨e, d, ⟨rxrtr, hr⟩, m, layout, test, addr⟩ := by
  unfold exideBit? at he
  unfold dlcRtrBit? at hd
  unfold txDlcMask? at hm
  simp only [configure, he, hd, hm, dif_pos hr]

/-- One illegal parameter is enough to be refused. -/
theorem configure_of_illegal
    (h : exideBit? exide = none ∨ dlcRtrBit? dlcRtr = none ∨ txDlcMask? mask = none ∨ ¬ rxrtr < 8) :
    configure exide dlcRtr rxrtr mask layout test addr = .error .illegalConfiguration := by
  unfold exideBit? dlcRtrBit? txDlcMask? at h
  unfold configure
  dsimp only
  split
  · next he hd hm =>
    rw [he, hd, hm] at h
    exact dif_neg (by simpa using h)
  · rfl

end configuring

end Sys2Proof.Machine

open Sys2Proof Sys2Proof.Machine

/-- Settles O52: a good state is good under every schedule, and from one only the two named turns can stop. -/
theorem goodStateRuns : Obligations.GoodStateRuns := by
  intro s h
  obtain ⟨rest, hrest⟩ := nextTurn_rest s
  rw [step_eq, hrest]
  simpa only [readOut_keepTurns] using (h.keepTurns rest).takeTurn_cases (nextTurn s).1

/-- Settles O58: each response register is read through `readWritten` (R14). -/
theorem callerReadsWrittenOnly : Obligations.CallerReadsWrittenOnly := by
  refine fun s rest => ⟨fun h => ?_, fun h => ?_, fun h => ?_, fun h => ?_⟩
  all_goals
    obtain ⟨hnone, hstep⟩ | ⟨v, hsome, hstep⟩ := step_read_register h rfl
    · simp only [hnone, hstep]
    · simp only [hsome, hstep]

/-- Settles O59: each parameter has a code exactly in its range, and `configure` asks for all four. -/
theorem configurationRanges : Obligations.ConfigurationRanges := by
  intro exide dlcRtr rxrtr mask layout test addr
  rcases exideBit?_cases exide with ⟨e, he, hidx, he2, he4⟩ | ⟨he, hbad⟩
  · rcases dlcRtrBit?_cases dlcRtr with ⟨d, hd, hdidx, hd4, hd7⟩ | ⟨hd, hbad⟩
    · rcases txDlcMask?_cases mask with ⟨m, hm, hbyte, hmask⟩ | ⟨hm, hbad⟩
      · by_cases hr : rxrtr < 8
        · exact .inl ⟨_, configure_of_legal layout test addr he hd hm hr, hidx _ rfl, hdidx _ rfl, rfl, hbyte _ rfl,
            rfl, rfl, rfl, he2, he4, hd4, hd7, by omega, hmask⟩
        · exact .inr ⟨configure_of_illegal layout test addr (.inr (.inr (.inr hr))), by omega⟩
      · exact .inr ⟨configure_of_illegal layout test addr (.inr (.inr (.inl hm))), by tauto⟩
    · exact .inr ⟨configure_of_illegal layout test addr (.inr (.inl hd)), by omega⟩
  · exact .inr ⟨configure_of_illegal layout test addr (.inl he), by omega⟩
end

section
/-! PROOFS. The state (10_state.md): what a turn can do to the block, said once; what every turn keeps, the configuration,
`FAULT` and the good state; a block that waits, an accepted command, and the trace that nothing reads. -/

namespace Sys2Proof.Machine

/-! What one turn does. -/

/-- The block of `s` in the surroundings of `o`: the configuration, the registers and the port of the one, the caller,
the environment, the schedule and the draws of the other. -/
def withSurroundings (s o : State) : State :=
  { s with
    din := o.din, dout := o.dout, seen := o.seen
    env := o.env, orphans := o.orphans, requester := o.requester, softwareRsp := o.softwareRsp
    agenda := o.agenda, draws := o.draws }

/-- The surroundings have no abandoned transaction that is new, and a register memory still in its canonical form. -/
def SurroundingsKept (s o : State) : Prop :=
  o.orphans ⊆ s.orphans ∧ (Memory.wf s.env.reg = true → Memory.wf o.env.reg = true)

theorem surroundingsKept_of_eq {s o : State} (horphans : o.orphans = s.orphans) (hreg : o.env.reg = s.env.reg) :
    SurroundingsKept s o :=
  ⟨horphans ▸ List.Subset.refl _, hreg ▸ id⟩

/-- What a turn that answers a next state has done: one constructor per way to write the block's registers. -/
inductive TurnEffect (s : State) : Turn → State → Prop where
  /-- The block is as it was. -/
  | outside (e : Turn) (o : State) (ho : SurroundingsKept s o) : TurnEffect s e (withSurroundings s o)
  /-- `RSP_IN` takes the response it awaits (R34). -/
  | answered (e : Turn) (r : Response) (o : State) (ho : SurroundingsKept s o) (ha : s.await = true)
      (hr : s.rspIn = none) : TurnEffect s e (storeResponse r (withSurroundings s o))
  /-- A command is not accepted (R236). -/
  | rejected (cmdw : BitVec 16) (id : LogicalId) (din : List Byte) (code : BitVec 3) (hp : s.phase ≠ Phase.faulted)
      (hcode : 1 ≤ code.toNat ∧ code.toNat ≤ 4) :
      TurnEffect s (.command cmdw id din) (raiseFault code (provideDin din s))
  /-- A TRANSMIT is accepted (R182). -/
  | transmitAccepted (cmdw : BitVec 16) (id : LogicalId) (din : List Byte) (slot : BitVec 2) (len : Byte)
      (hp : s.phase = Phase.idle) (hd : decodeCommand cmdw id = .ok (.transmit slot len id)) (hslot : slot.toNat ≤ 2)
      (hdin : payloadCount len ≤ din.length) :
      TurnEffect s (.command cmdw id din) (acceptTransmit slot len id (provideDin din s))
  /-- A RECEIVE is accepted (R185). -/
  | receiveAccepted (cmdw : BitVec 16) (id : LogicalId) (din : List Byte) (slot : BitVec 2)
      (hp : s.phase = Phase.idle) (hd : decodeCommand cmdw id = .ok (.receive slot)) (hslot : slot.toNat ≤ 1) :
      TurnEffect s (.command cmdw id din) (acceptReceive slot (provideDin din s))
  /-- The issue step (R181). -/
  | issued (t : Transaction) (hp : inProgress s) (ha : s.await = false) (ht : phaseTransaction s = .ok t) :
      TurnEffect s .block (issue t s)
  /-- The consume step (R181). -/
  | consumed (r : Response) (t : State) (hp : inProgress s) (ha : s.await = true) (hr : s.rspIn = some r)
      (ht : consumeStep r s = .next t) : TurnEffect s .block t
  /-- The reset input (R260). -/
  | reset : TurnEffect s .reset (resetBlock s)

/-- A response touches `RSP_IN` where the block awaits it, and only the surroundings elsewhere. -/
theorem answerBlock_effect {s o : State} (ho : SurroundingsKept s o) (e : Turn) (r : Response) :
    TurnEffect s e (answerBlock r (withSurroundings s o)) := by
  rcases answerBlock_cases r (withSurroundings s o) with ⟨ha, hr, h⟩ | ⟨-, h⟩
  · exact h ▸ .answered e r o ho ha hr
  · rw [h]; exact .outside e o ho

theorem respond_effect {s o : State} (ho : SurroundingsKept s o) (e : Turn) (r : Response) :
    TurnEffect s e (respond r (withSurroundings s o)) := by
  rcases respond_cases r (withSurroundings s o) with ⟨-, h⟩ | ⟨-, h⟩ | ⟨-, h⟩
  · exact h ▸ answerBlock_effect ho e r
  · exact h ▸ .outside e (answerSoftware r o) ho
  · rw [h]; exact .outside e o ho

theorem performTransaction_effect {s o t : State} {who : Requester} {T : Transaction} (ho : SurroundingsKept s o)
    (e : Turn) (h : performTransaction who T (withSurroundings s o) = .next t) : TurnEffect s e t := by
  rcases performTransaction_cases who T (withSurroundings s o) with
    ⟨_, -, hc⟩ | ⟨i, -, ⟨-, hc⟩ | ⟨-, r, env, d, hc, -, -, -, hmem⟩⟩
  · rw [hc] at h; cases h
  · rw [hc] at h; cases h
  · obtain rfl := Host.Outcome.next.inj (hc.symm.trans h)
    exact respond_effect (o := { o with requester := who, env := env, draws := d })
      ⟨ho.1, fun hs => hmem (ho.2 hs)⟩ e r

theorem blockStep_effect {s t : State} (h : blockStep s = .next t) : TurnEffect s .block t := by
  have stay : TurnEffect s .block s := .outside _ s (surroundingsKept_of_eq rfl rfl)
  rcases blockStep_cases s with ⟨f, -, hc⟩ | ⟨-, -, hc⟩ | ⟨hcodes, hidle, hfaulted, hrun⟩
  · rw [hc] at h; cases h
  · exact Host.Outcome.next.inj (hc.symm.trans h) ▸ stay
  · obtain ⟨h5, h6, -⟩ := (corruptRegister_none_iff s).1 hcodes
    have hp : inProgress s := inProgress_of_phase h5 h6 hidle hfaulted
    rcases hrun with ⟨-, -, hc⟩ | ⟨r, ha, hr, hc⟩ | ⟨ha, hc⟩
    · exact Host.Outcome.next.inj (hc.symm.trans h) ▸ stay
    · exact .consumed r t hp ha hr (hc.symm.trans h)
    · rcases issueStep_cases s with ⟨T, hT, hi⟩ | ⟨f, -, hi⟩
      · exact Host.Outcome.next.inj ((hc.trans hi).symm.trans h) ▸ .issued T hp ha hT
      · rw [hc, hi] at h; cases h

theorem presentCommand_effect {s t : State} {cmdw : BitVec 16} {id : LogicalId} {din : List Byte}
    (h : presentCommand cmdw id din s = .next t) : TurnEffect s (.command cmdw id din) t := by
  rcases presentCommand_cases cmdw id din s with ⟨f, -, hc⟩ |
    ⟨-, ⟨-, hc⟩ | ⟨hp, -, hc⟩ | ⟨hp, ⟨code, h1, h3, hc⟩ | ⟨slot, len, hd, hs, hl, hc⟩ | ⟨slot, hd, hs, hc⟩⟩⟩
  · rw [hc] at h; cases h
  all_goals obtain rfl := Host.Outcome.next.inj (hc.symm.trans h)
  · exact .outside _ (provideDin din s) (surroundingsKept_of_eq rfl rfl)
  · exact .rejected cmdw id din _ hp (by decide)
  · exact .rejected cmdw id din code (hp ▸ by decide) ⟨h1, by omega⟩
  · exact .transmitAccepted cmdw id din slot len hp hd hs hl
  · exact .receiveAccepted cmdw id din slot hp hd hs

/-- Everything a turn can do. -/
theorem takeTurn_effect {e : Turn} {s t : State} (h : takeTurn e s = .next t) : TurnEffect s e t := by
  have same : SurroundingsKept s s := surroundingsKept_of_eq rfl rfl
  cases e with
  | block => exact blockStep_effect h
  | command cmdw id din => exact presentCommand_effect h
  | serve =>
    simp only [takeTurn, serveBlock] at h
    split at h
    · exact Host.Outcome.next.inj h ▸ .outside _ s same
    · exact performTransaction_effect (o := s) same _ h
  | serveOrphan n =>
    simp only [takeTurn, serveOrphan] at h
    split at h
    · exact Host.Outcome.next.inj h ▸ .outside _ s same
    · exact performTransaction_effect (o := dropOrphan n s) ⟨List.eraseIdx_subset, id⟩ _ h
  | software T => exact performTransaction_effect (o := s) same _ h
  | read r =>
    simp only [takeTurn, callerRead] at h
    split at h
    · exact Host.Outcome.next.inj h ▸ .outside _ (recordSeen _ s) same
    · cases h
  | answer r => exact Host.Outcome.next.inj h ▸ answerBlock_effect (o := s) same _ r
  | changeTxb i b => exact Host.Outcome.next.inj h ▸ .outside _ (storeTxb i b s) same
  | changeRxb i b => exact Host.Outcome.next.inj h ▸ .outside _ (storeRxb i b s) same
  | changeReg a v =>
    exact Host.Outcome.next.inj h ▸ .outside _ (writeRegister a v s) ⟨List.Subset.refl _, writeRegister_wf a v s⟩
  | changeTxreq i v => exact Host.Outcome.next.inj h ▸ .outside _ (setTxreq i v s) same
  | setDin bytes => exact Host.Outcome.next.inj h ▸ .outside _ (provideDin bytes s) same
  | setDout bytes => exact Host.Outcome.next.inj h ▸ .outside _ (provideDout bytes s) same
  | reset => exact Host.Outcome.next.inj h ▸ .reset

/-- A step is its next turn, after the schedule has moved on. -/
theorem step_effect {s t : State} (h : step s = .next t) :
    ∃ rest, (nextTurn s).2 = keepTurns rest s ∧ TurnEffect (keepTurns rest s) (nextTurn s).1 t := by
  obtain ⟨rest, hrest⟩ := nextTurn_rest s
  exact ⟨rest, hrest, takeTurn_effect (by rw [← hrest, ← step_eq, h])⟩

/-! The consume step. -/

/-- Ending a command with a failure: the failure kept, and after a RECEIVE the outputs open (R188, R189). -/
theorem completeFail_next {f : FailureValue} {s t : State} (h : completeFail f s = .next t) :
    (s.cmdOp ≠ some CmdOp.receive ∧ t = finish Result.busFail (storeFailval f s)) ∨
    (s.cmdOp = some CmdOp.receive ∧ t = finish Result.busFail (failReceiveOutputs (storeFailval f s))) := by
  unfold completeFail at h
  cases hop : s.cmdOp with
  | none => simp [hop] at h
  | some op =>
    by_cases hreceive : op = CmdOp.receive
    · exact .inr ⟨by rw [hreceive], by simpa [hop, hreceive, eq_comm] using h⟩
    · exact .inl ⟨by simpa using hreceive, by simpa [hop, hreceive, eq_comm] using h⟩

/-- What the consume step makes of the state in which the response has been taken: one constructor per arm (R181). -/
inductive ConsumeEffect (r : Response) (s : State) : State → Prop where
  | failed (f : FailureValue) (hr : r = .fail f) (hop : s.cmdOp ≠ some CmdOp.receive) :
      ConsumeEffect r s (finish Result.busFail (storeFailval f s))
  | receiveFailed (f : FailureValue) (hr : r = .fail f) (hop : s.cmdOp = some CmdOp.receive) :
      ConsumeEffect r s (finish Result.busFail (failReceiveOutputs (storeFailval f s)))
  | loaded (hp : s.phase = Phase.txLoad) (hr : r = .ok) : ConsumeEffect r s (loadAcknowledged s)
  | requested (hp : s.phase = Phase.txRts) (hr : r = .ok) : ConsumeEffect r s (completeOk s)
  | bufferRead (b : Image) (hp : s.phase = Phase.rxBuf) (hr : r = .okBytes b) : ConsumeEffect r s (storeImage b s)
  | received (v : Byte) (hp : s.phase = Phase.rxCtrl) (hr : r = .okByte v) : ConsumeEffect r s (receiveDone v s)
  | wrongShape (hr : ∀ f, r ≠ .fail f) : ConsumeEffect r s (raiseFault FaultCode.badResponse s)

theorem consumeStep_effect {r : Response} {s t : State} (h : consumeStep r s = .next t) :
    ConsumeEffect r (takeResponse r s) t := by
  rcases consumeStep_cases r s with
    ⟨f, hr, hc⟩ | ⟨hp, hr, hc⟩ | ⟨hp, hr, hc⟩ | ⟨b, hp, hr, hc⟩ | ⟨v, hp, hr, hc⟩ | ⟨hc, hr, -⟩
  · rcases completeFail_next (hc.symm.trans h) with ⟨hop, rfl⟩ | ⟨hop, rfl⟩
    · exact .failed f hr hop
    · exact .receiveFailed f hr hop
  all_goals obtain rfl := Host.Outcome.next.inj (hc.symm.trans h)
  · exact .loaded hp hr
  · exact .requested hp hr
  · exact .bufferRead b hp hr
  · exact .received v hp hr
  · exact .wrongShape hr

/-! The configuration and the fault register. -/

theorem ConsumeEffect.cfg {r : Response} {s t : State} (h : ConsumeEffect r s t) : t.cfg = s.cfg := by
  cases h <;> rfl

theorem TurnEffect.cfg {s t : State} {e : Turn} (h : TurnEffect s e t) : t.cfg = s.cfg := by
  cases h with
  | consumed r t hp ha hr ht => exact (consumeStep_effect ht).cfg
  | outside | answered | rejected | transmitAccepted | receiveAccepted | issued | reset => rfl

/-- The consume step leaves FAULT as it was, or enters FAULTED with BAD_RESPONSE. -/
theorem ConsumeEffect.faultReg {r : Response} {s t : State} (h : ConsumeEffect r s t) :
    t.faultReg = s.faultReg ∨ (t.phase = Phase.faulted ∧ t.faultReg = FaultCode.badResponse) := by
  cases h with
  | wrongShape => exact .inr ⟨rfl, rfl⟩
  | failed | receiveFailed | loaded | requested | bufferRead | received => exact .inl rfl

theorem inProgress.phase_ne_faulted {s : State} (h : inProgress s) : s.phase ≠ Phase.faulted := by
  rcases h with (h | h) | (h | h) <;> rw [h] <;> decide

/-- A turn leaves FAULT as it was, clears it by reset, or enters FAULTED with a code of 1 to 5. -/
theorem TurnEffect.faultReg {s t : State} {e : Turn} (h : TurnEffect s e t) :
    t.faultReg = s.faultReg ∨ (e = .reset ∧ t = resetBlock s) ∨
    (s.phase ≠ Phase.faulted ∧ t.phase = Phase.faulted ∧ 1 ≤ t.faultReg.toNat ∧ t.faultReg.toNat ≤ 5) := by
  cases h with
  | outside | answered | transmitAccepted | receiveAccepted | issued => exact .inl rfl
  | rejected _ _ _ code hp hcode => exact .inr (.inr ⟨hp, rfl, hcode.1, Nat.le_succ_of_le hcode.2⟩)
  | reset => exact .inr (.inl ⟨rfl, rfl⟩)
  | consumed r _ hp _ _ ht =>
    rcases (consumeStep_effect ht).faultReg with heq | ⟨hphase, hcode⟩
    · exact .inl heq
    · exact .inr (.inr ⟨hp.phase_ne_faulted, hphase, by rw [hcode]; decide⟩)

/-! A trace one event longer (R221). -/

theorem followTrace_concat (c : Config) (trace : List TraceEvent) (e : TraceEvent) :
    followTrace c (trace ++ [e]) = (followTrace c trace).bind fun p => followEvent c p e := by
  simp [followTrace]

theorem followTrace_snoc {c : Config} {trace : List TraceEvent} {p q : TracePos} {e : TraceEvent}
    (h : followTrace c trace = some p) (he : followEvent c p e = some q) :
    followTrace c (trace ++ [e]) = some q := by
  rw [followTrace_concat, h, Option.bind_some, he]

theorem payloadCount_le (len : Byte) : payloadCount len ≤ 8 := Nat.min_le_right ..

/-- The reads of `DIN`, in order, follow a trace that is between commands. -/
theorem followTrace_reads {c : Config} {trace : List TraceEvent} (h : followTrace c trace = some (.reading 0)) {n : Nat}
    (hn : n ≤ 8) : followTrace c (trace ++ (List.range n).map TraceEvent.dinRead) = some (.reading n) := by
  induction n with
  | zero => simpa using h
  | succ n ih =>
    rw [List.range_succ, List.map_append, ← List.append_assoc]
    exact followTrace_snoc (ih (by omega)) (if_pos ⟨rfl, by omega⟩)

/-- The writes of `DOUT`, in order, follow a trace that is delivering. -/
theorem followTrace_writes {c : Config} (bytes : List Byte) {trace : List TraceEvent} {n : Nat}
    (h : followTrace c trace = some (.delivering n)) (hn : n + bytes.length ≤ 8) :
    ∃ m, followTrace c (trace ++ doutWrites bytes n) = some (.delivering m) := by
  induction bytes generalizing trace n with
  | nil => exact ⟨n, by simpa [doutWrites] using h⟩
  | cons x xs ih =>
    rw [List.length_cons] at hn
    have hx : followTrace c (trace ++ [.doutWrite n x]) = some (.delivering (n + 1)) :=
      followTrace_snoc h (if_pos ⟨rfl, by omega⟩)
    simpa [doutWrites] using ih hx (by omega)

theorem receivedBytes_length (b : Image) : (receivedBytes b).length ≤ 8 :=
  (List.length_take_le _ _).trans (payloadCount_le _)

/-- The trace stands after a transaction and before its response. -/
def TracePos.awaitsResponse : TracePos → Prop
  | .loadSent _ | .requestSent _ | .bufferSent _ | .controlSent _ => True
  | _ => False

/-- Where a response is due the protocol goes on with every response, and with a failure it is about to end. -/
theorem followEvent_resp (c : Config) {p : TracePos} (h : p.awaitsResponse) (r : Response) :
    ∃ q, followEvent c p (.resp r) = some q ∧ ∀ f, r = .fail f → q = .closing Result.busFail := by
  cases p with
  | loadSent | requestSent | bufferSent | controlSent =>
    cases r with
    | fail => exact ⟨_, rfl, fun _ _ => rfl⟩
    | ok | okByte | okBytes => exact ⟨_, rfl, nofun⟩
  | reading | loaded | bufferRead | delivering | closing | broken => exact h.elim

theorem followEvent_done_closing (c : Config) (res : BitVec 1) :
    followEvent c (.closing res) (.done res) = some (.reading 0) := by simp [followEvent]

theorem followEvent_done_delivering (c : Config) (n : Nat) :
    followEvent c (.delivering n) (.done Result.ok) = some (.reading 0) := by simp [followEvent]

/-! Where the trace stands, phase by phase. -/

section positions
variable {s : State} {p : TracePos}

theorem positionFits_idle (h : s.phase = Phase.idle) : positionFits s p ↔ p = .reading 0 := by
  simp [positionFits, h, Phase.idle, Phase.txLoad, Phase.txRts, Phase.rxBuf, Phase.rxCtrl]

theorem positionFits_faulted (h : s.phase = Phase.faulted) : positionFits s p := by
  simp [positionFits, h, Phase.faulted, Phase.idle, Phase.txLoad, Phase.txRts, Phase.rxBuf, Phase.rxCtrl]

theorem positionFits_txLoad (h : s.phase = Phase.txLoad) : positionFits s p ↔
    if s.await = true then ∃ slot, s.cmdSlot = some slot ∧ p = .loadSent slot else ∃ n, p = .reading n := by
  simp [positionFits, h, Phase.idle, Phase.txLoad, Phase.txRts, Phase.rxBuf, Phase.rxCtrl]

theorem positionFits_txRts (h : s.phase = Phase.txRts) : positionFits s p ↔
    ∃ slot, s.cmdSlot = some slot ∧ p = if s.await = true then .requestSent slot else .loaded slot := by
  simp [positionFits, h, Phase.idle, Phase.txLoad, Phase.txRts, Phase.rxBuf, Phase.rxCtrl]

theorem positionFits_rxBuf (h : s.phase = Phase.rxBuf) : positionFits s p ↔
    if s.await = true then ∃ slot, s.cmdSlot = some slot ∧ p = .bufferSent slot else p = .reading 0 := by
  simp [positionFits, h, Phase.idle, Phase.txLoad, Phase.txRts, Phase.rxBuf, Phase.rxCtrl]

theorem positionFits_rxCtrl (h : s.phase = Phase.rxCtrl) : positionFits s p ↔
    ∃ slot, s.cmdSlot = some slot ∧ p = if s.await = true then .controlSent slot else .bufferRead slot := by
  simp [positionFits, h, Phase.idle, Phase.txLoad, Phase.txRts, Phase.rxBuf, Phase.rxCtrl]

/-- While a transaction is awaited the trace stands after it. -/
theorem awaitsResponse_of_fits (hp : inProgress s) (ha : s.await = true) (h : positionFits s p) :
    p.awaitsResponse := by
  rcases hp with (hp | hp) | (hp | hp)
  · obtain ⟨_, -, rfl⟩ := by simpa [ha] using (positionFits_txLoad hp).1 h
    trivial
  · obtain ⟨_, -, rfl⟩ := by simpa [ha] using (positionFits_txRts hp).1 h
    trivial
  · obtain ⟨_, -, rfl⟩ := by simpa [ha] using (positionFits_rxBuf hp).1 h
    trivial
  · obtain ⟨_, -, rfl⟩ := by simpa [ha] using (positionFits_rxCtrl hp).1 h
    trivial

end positions

/-! Registers that agree, kind of phase by kind of phase. -/

/-- No transaction is outstanding and no response waits (R34, R210). -/
abbrev NothingOutstanding (s : State) : Prop := s.await = false ∧ s.rspIn = none ∧ s.port = none

/-- The response registers fit one another (R40, R230). -/
abbrev OutputsMatch (s : State) : Prop :=
  (s.failval.isSome ↔ s.result = some Result.busFail) ∧
    (s.idOut.isSome → s.result = some Result.ok) ∧ (s.idOut.isSome ↔ s.lenOut.isSome)

/-- The response registers are unwritten (R40). -/
abbrev OutputsPending (s : State) : Prop := s.result = none ∧ s.failval = none ∧ s.idOut = none ∧ s.lenOut = none

/-- A command in progress has its latches (R35, R180). -/
abbrev CommandLatched (s : State) : Prop :=
  (inTransmit s ∧ s.cmdOp = some CmdOp.transmit ∧ (∃ slot, s.cmdSlot = some slot ∧ isTxSlot slot) ∧
    s.idIn.isSome ∧ s.lenIn.isSome) ∨
  (inReceive s ∧ s.cmdOp = some CmdOp.receive ∧ (∃ slot, s.cmdSlot = some slot ∧ isRxSlot slot) ∧
    s.idIn = none ∧ s.lenIn = none)

theorem OutputsPending.outputsMatch {s : State} (h : OutputsPending s) : OutputsMatch s := by
  obtain ⟨hresult, hfailval, hid, hlen⟩ := h
  simp [OutputsMatch, hresult, hfailval, hid, hlen]

section agreement
variable {s : State}

theorem RegistersAgree.of_idle (hp : s.phase = Phase.idle) (hf : s.faultReg = FaultCode.none)
    (hn : NothingOutstanding s) (hu : s.idIn = none ∧ s.lenIn = none ∧ s.stat = none) (hout : OutputsMatch s) :
    RegistersAgree s := by
  obtain ⟨ha, hr, hport⟩ := hn
  have hbusy : ¬ inTransmit s ∧ ¬ inReceive s := by simp only [inTransmit, inReceive, hp]; decide
  exact {
    phase_written := hp ▸ by decide
    fault_written := hf ▸ by decide
    fault_iff_faulted := by rw [hp, hf]; decide
    await_in_progress := by simp [ha]
    response_awaited := by simp [hr]
    port_is_phase := by simp [hport, ha]
    transmit_latched := fun h => absurd h hbusy.1
    receive_latched := fun h => absurd h hbusy.2
    outputs_pending := fun h => absurd h (not_or.2 hbusy)
    idle_unwritten := fun _ => hu
    outputs_match := hout }

theorem RegistersAgree.of_faulted (hp : s.phase = Phase.faulted) (hf : 1 ≤ s.faultReg.toNat ∧ s.faultReg.toNat ≤ 5)
    (hn : NothingOutstanding s) (hout : OutputsMatch s) : RegistersAgree s := by
  obtain ⟨ha, hr, hport⟩ := hn
  have hbusy : ¬ inTransmit s ∧ ¬ inReceive s := by simp only [inTransmit, inReceive, hp]; decide
  have hcode : s.faultReg ≠ FaultCode.none := fun h => by simp [h, FaultCode.none] at hf
  exact {
    phase_written := hp ▸ by decide
    fault_written := hf.2
    fault_iff_faulted := iff_of_true hp hcode
    await_in_progress := by simp [ha]
    response_awaited := by simp [hr]
    port_is_phase := by simp [hport, ha]
    transmit_latched := fun h => absurd h hbusy.1
    receive_latched := fun h => absurd h hbusy.2
    outputs_pending := fun h => absurd h (not_or.2 hbusy)
    idle_unwritten := fun h => absurd (hp.symm.trans h) (by decide)
    outputs_match := hout }

theorem inTransmit.not_inReceive (h : inTransmit s) : ¬ inReceive s := by
  rcases h with h | h <;> simp only [inReceive, h] <;> decide

theorem CommandLatched.inProgress (h : CommandLatched s) : inProgress s := h.imp And.left And.left

theorem RegistersAgree.of_inProgress (hl : CommandLatched s) (hf : s.faultReg = FaultCode.none)
    (hresp : s.rspIn ≠ none → s.await = true)
    (hport : s.port = if s.await = true ∧ s.rspIn = none then (phaseTransaction s).toOption else none)
    (hout : OutputsPending s) : RegistersAgree s where
  phase_written := by rcases hl.inProgress with (h | h) | (h | h) <;> rw [h] <;> decide
  fault_written := hf ▸ by decide
  fault_iff_faulted := iff_of_false hl.inProgress.phase_ne_faulted (not_not_intro hf)
  await_in_progress := fun _ => hl.inProgress
  response_awaited := hresp
  port_is_phase := hport
  transmit_latched := fun h => (hl.resolve_right fun hr => inTransmit.not_inReceive h hr.1).2
  receive_latched := fun h => (hl.resolve_left fun ht => inTransmit.not_inReceive ht.1 h).2
  outputs_pending := fun _ => hout
  idle_unwritten := fun h => by
    rcases hl.inProgress with (hp | hp) | (hp | hp) <;> exact absurd (hp.symm.trans h) (by decide)
  outputs_match := hout.outputsMatch

theorem RegistersAgree.commandLatched (h : RegistersAgree s) (hp : inProgress s) : CommandLatched s :=
  hp.imp (fun ht => ⟨ht, h.transmit_latched ht⟩) (fun hr => ⟨hr, h.receive_latched hr⟩)

theorem RegistersAgree.faultReg_none (h : RegistersAgree s) (hp : s.phase ≠ Phase.faulted) :
    s.faultReg = FaultCode.none :=
  not_not.1 fun hf => hp (h.fault_iff_faulted.2 hf)

theorem RegistersAgree.rspIn_none (h : RegistersAgree s) (ha : s.await = false) : s.rspIn = none :=
  not_not.1 fun hr => by simp [h.response_awaited hr] at ha

theorem RegistersAgree.port_none (h : RegistersAgree s) (hn : ¬ (s.await = true ∧ s.rspIn = none)) : s.port = none :=
  h.port_is_phase.trans (if_neg hn)

end agreement

/-! Good states, kind of step by kind of step. -/

section goodness
variable {s : State}

theorem GoodState.of_idle (hp : s.phase = Phase.idle) (hf : s.faultReg = FaultCode.none) (hn : NothingOutstanding s)
    (hu : s.idIn = none ∧ s.lenIn = none ∧ s.stat = none) (hout : OutputsMatch s) (horphans : orphansFromBlock s)
    (htrace : followTrace s.cfg s.trace = some (.reading 0)) (hmem : Memory.wf s.env.reg = true) : GoodState s where
  registers := .of_idle hp hf hn hu hout
  orphans := horphans
  trace := ⟨_, htrace, (positionFits_idle hp).2 rfl⟩
  memory := hmem

/-- What the block leaves behind when it gives up a transaction is one it issues (R221). -/
theorem GoodState.abandoned (h : GoodState s) : ∀ t ∈ s.orphans ++ s.port.toList, fromBlock s.cfg t := by
  intro t ht
  rcases List.mem_append.1 ht with ht | ht
  · exact h.orphans t ht
  · exact h.registers.port_fromBlock (Option.mem_toList.1 ht)

theorem GoodState.reset (h : GoodState s) : GoodState (resetBlock s) :=
  .of_idle rfl rfl ⟨rfl, rfl, rfl⟩ ⟨rfl, rfl, rfl⟩ (OutputsPending.outputsMatch ⟨rfl, rfl, rfl, rfl⟩)
    h.abandoned rfl h.memory

/-- Entering FAULTED asks little of a state: the response registers fit one another, and the trace stands somewhere. -/
theorem goodState_raiseFault {code : BitVec 3} (hcode : 1 ≤ code.toNat ∧ code.toNat ≤ 5) (hout : OutputsMatch s)
    (habandoned : ∀ t ∈ s.orphans ++ s.port.toList, fromBlock s.cfg t)
    (htrace : ∃ p, followTrace s.cfg s.trace = some p) (hmem : Memory.wf s.env.reg = true) :
    GoodState (raiseFault code s) where
  registers := .of_faulted rfl hcode ⟨rfl, rfl, rfl⟩ hout
  orphans := habandoned
  trace := htrace.imp fun _ hp => ⟨hp, positionFits_faulted rfl⟩
  memory := hmem

theorem GoodState.raiseFault (h : GoodState s) {code : BitVec 3} (hcode : 1 ≤ code.toNat ∧ code.toNat ≤ 5) :
    GoodState (raiseFault code s) :=
  goodState_raiseFault hcode h.registers.outputs_match h.abandoned (h.trace.imp fun _ hp => hp.1) h.memory

theorem GoodState.withSurroundings {o : State} (h : GoodState s) (ho : SurroundingsKept s o) :
    GoodState (withSurroundings s o) where
  registers := { h.registers with }
  orphans := fun t ht => h.orphans t (ho.1 ht)
  trace := h.trace
  memory := ho.2 h.memory

theorem GoodState.provideDin (h : GoodState s) (din : List Byte) : GoodState (provideDin din s) :=
  h.withSurroundings (o := Machine.provideDin din s) (surroundingsKept_of_eq rfl rfl)

/-- The response that was awaited waits to be consumed, and the port is free (R34, R181). -/
theorem GoodState.storeResponse (h : GoodState s) (ha : s.await = true) (r : Response) :
    GoodState (storeResponse r s) where
  registers := { h.registers with
    response_awaited := fun _ => ha
    port_is_phase := by simp }
  orphans := h.orphans
  trace := h.trace
  memory := h.memory

/-! Acceptance. -/

theorem GoodState.reading_of_idle (h : GoodState s) (hp : s.phase = Phase.idle) :
    followTrace s.cfg s.trace = some (.reading 0) := by
  obtain ⟨p, htrace, hfit⟩ := h.trace
  rwa [(positionFits_idle hp).1 hfit] at htrace

theorem GoodState.nothingOutstanding_of_idle (h : GoodState s) (hp : s.phase = Phase.idle) : NothingOutstanding s := by
  have ha : s.await = false := by
    cases ha : s.await with
    | false => rfl
    | true =>
      rcases h.registers.await_in_progress ha with (hb | hb) | (hb | hb) <;>
        exact absurd (hp.symm.trans hb) (by decide)
  exact ⟨ha, h.registers.rspIn_none ha, h.registers.port_none (by simp [ha])⟩

theorem GoodState.acceptTransmit (h : GoodState s) (hp : s.phase = Phase.idle) {slot : BitVec 2}
    (hslot : slot.toNat ≤ 2) (len : Byte) (id : LogicalId) : GoodState (acceptTransmit slot len id s) where
  registers := .of_inProgress
    (.inl ⟨.inl rfl, rfl, ⟨slot, rfl, decide_eq_true (Nat.lt_succ_of_le hslot)⟩, rfl, rfl⟩)
    (h.registers.faultReg_none (hp ▸ by decide)) (by simp) (h.nothingOutstanding_of_idle hp).2.2 ⟨rfl, rfl, rfl, rfl⟩
  orphans := h.orphans
  trace := ⟨_, followTrace_reads (h.reading_of_idle hp) (payloadCount_le len), (positionFits_txLoad rfl).2 ⟨_, rfl⟩⟩
  memory := h.memory

theorem GoodState.acceptReceive (h : GoodState s) (hp : s.phase = Phase.idle) {slot : BitVec 2}
    (hslot : slot.toNat ≤ 1) : GoodState (acceptReceive slot s) where
  registers := .of_inProgress
    (.inr ⟨.inl rfl, rfl, ⟨slot, rfl, decide_eq_true (Nat.lt_succ_of_le hslot)⟩, rfl, rfl⟩)
    (h.registers.faultReg_none (hp ▸ by decide)) (by simp) (h.nothingOutstanding_of_idle hp).2.2 ⟨rfl, rfl, rfl, rfl⟩
  orphans := h.orphans
  trace := ⟨_, h.reading_of_idle hp, (positionFits_rxBuf rfl).2 rfl⟩
  memory := h.memory

/-! The issue step. -/

/-- The issue of the phase's transaction is the next event of the protocol, and its response is due (R183 to R187). -/
theorem GoodState.issue_inProtocol (h : GoodState s) (hp : inProgress s) (ha : s.await = false) {t : Transaction}
    (ht : phaseTransaction s = .ok t) : TraceInProtocol (issue t s) := by
  obtain ⟨p, htrace, hfit⟩ := h.trace
  have next : ∀ q, followEvent s.cfg p (.issue t) = some q → positionFits (issue t s) q →
      TraceInProtocol (issue t s) := fun q he hq => ⟨q, followTrace_snoc htrace he, hq⟩
  rcases hp with hp | hp
  · obtain ⟨-, ⟨slot, hslot, htx⟩, -⟩ := h.registers.transmit_latched hp
    rcases hp with hp | hp
    · obtain rfl : loadTxWord slot s.buf = t := by simpa [phaseTransaction, hslot, hp] using ht
      obtain ⟨n, rfl⟩ := by simpa [ha] using (positionFits_txLoad hp).1 hfit
      exact next (.loadSent slot) (by simp only [followEvent, decode_loadTxWord, htx, if_pos])
        ((positionFits_txLoad (s := Machine.issue _ s) hp).2 ⟨slot, hslot, rfl⟩)
    · obtain rfl : reqSendWord slot = t := by
        simpa [phaseTransaction, hslot, hp, Phase.txRts, Phase.txLoad] using ht
      obtain rfl : p = .loaded slot := by simpa [ha, hslot] using (positionFits_txRts hp).1 hfit
      exact next (.requestSent slot) (if_pos rfl)
        ((positionFits_txRts (s := Machine.issue _ s) hp).2 ⟨slot, hslot, rfl⟩)
  · obtain ⟨-, ⟨slot, hslot, hrx⟩, -⟩ := h.registers.receive_latched hp
    rcases hp with hp | hp
    · obtain rfl : readRxWord slot = t := by
        simpa [phaseTransaction, hslot, hp, Phase.rxBuf, Phase.txRts, Phase.txLoad] using ht
      obtain rfl : p = .reading 0 := by simpa [ha] using (positionFits_rxBuf hp).1 hfit
      exact next (.bufferSent slot)
        (by simp only [followEvent, decode_readRxWord (of_decide_eq_true hrx), hrx, and_self, if_pos])
        ((positionFits_rxBuf (s := Machine.issue _ s) hp).2 ⟨slot, hslot, rfl⟩)
    · obtain ⟨a, haddr⟩ := rxctrlAddrOf_of_isRxSlot s.cfg hrx
      obtain rfl : readRegWord a = t := by
        simpa [phaseTransaction, hslot, hp, haddr, Phase.rxCtrl, Phase.rxBuf, Phase.txRts, Phase.txLoad] using ht
      obtain rfl : p = .bufferRead slot := by simpa [ha, hslot] using (positionFits_rxCtrl hp).1 hfit
      exact next (.controlSent slot) (by simp only [followEvent, haddr, if_pos])
        ((positionFits_rxCtrl (s := Machine.issue _ s) hp).2 ⟨slot, hslot, rfl⟩)

theorem GoodState.issue (h : GoodState s) (hp : inProgress s) (ha : s.await = false) {t : Transaction}
    (ht : phaseTransaction s = .ok t) : GoodState (issue t s) where
  registers := .of_inProgress (h.registers.commandLatched hp) (h.registers.faultReg_none hp.phase_ne_faulted)
    (fun _ => rfl)
    (by
      have hsame : phaseTransaction (Machine.issue t s) = .ok t := ht
      simp [hsame, h.registers.rspIn_none ha, Except.toOption])
    (h.registers.outputs_pending hp)
  orphans := h.orphans
  trace := h.issue_inProtocol hp ha ht
  memory := h.memory

/-! The consume step. -/

/-- The response is taken: the command is still in progress, nothing is outstanding, and the trace is one response
longer. This is not a good state, because the phase has not moved on. -/
structure ResponseTaken (r : Response) (s : State) : Prop where
  latched     : CommandLatched s
  no_fault    : s.faultReg = FaultCode.none
  outstanding : NothingOutstanding s
  pending     : OutputsPending s
  orphans     : orphansFromBlock s
  memory      : Memory.wf s.env.reg = true
  /-- Before the response the trace stood where the phase awaits it. -/
  trace       : ∃ before p, s.trace = before ++ [.resp r] ∧ followTrace s.cfg before = some p ∧
    positionFits { s with await := true } p

theorem GoodState.takeResponse (h : GoodState s) (hp : inProgress s) (ha : s.await = true) {r : Response}
    (hr : s.rspIn = some r) : ResponseTaken r (takeResponse r s) where
  latched := h.registers.commandLatched hp
  no_fault := h.registers.faultReg_none hp.phase_ne_faulted
  outstanding := ⟨rfl, rfl, h.registers.port_none (by simp [hr])⟩
  pending := h.registers.outputs_pending hp
  orphans := h.orphans
  memory := h.memory
  trace := by
    obtain ⟨p, htrace, hfit⟩ := h.trace
    exact ⟨s.trace, p, rfl, htrace,
      by simpa only [positionFits, takeResponse_phase, takeResponse_cmdSlot, ha] using hfit⟩

end goodness

section consuming
variable {s : State} {r : Response}

/-- An arm of the consume step leaves the configuration, the fault register, the handshake and the environment alone. -/
abbrev HandshakeKept (s u : State) : Prop :=
  u.cfg = s.cfg ∧ u.faultReg = s.faultReg ∧ u.await = s.await ∧ u.rspIn = s.rspIn ∧ u.port = s.port ∧
    u.orphans = s.orphans ∧ u.env = s.env

/-- Every response that is due is followed by the protocol, and after a failure only the end is left. -/
theorem ResponseTaken.closing (h : ResponseTaken r s) :
    ∃ q, followTrace s.cfg s.trace = some q ∧ ∀ f, r = .fail f → q = .closing Result.busFail := by
  obtain ⟨before, p, htrace, hbefore, hfit⟩ := h.trace
  obtain ⟨q, hq, hfail⟩ := followEvent_resp s.cfg
    (awaitsResponse_of_fits (s := { s with await := true }) h.latched.inProgress rfl hfit) r
  exact ⟨q, htrace ▸ followTrace_snoc hbefore hq, hfail⟩

/-- A command ends in a good state where its outputs fit its result and the trace has come to its `DONE`. -/
theorem ResponseTaken.finish (h : ResponseTaken r s) {u : State} {res : BitVec 1} {q : TracePos}
    (hkept : HandshakeKept s u) (hout : OutputsMatch (finish res u)) (hq : followTrace s.cfg u.trace = some q)
    (hdone : followEvent s.cfg q (.done res) = some (.reading 0)) : GoodState (finish res u) := by
  obtain ⟨hcfg, hfault, hawait, hrsp, hport, horphans, henv⟩ := hkept
  obtain ⟨ha, hr, hnone⟩ := h.outstanding
  refine .of_idle rfl ?_ ⟨?_, ?_, ?_⟩ ⟨rfl, rfl, rfl⟩ hout ?_ ?_ ?_
  · simpa [hfault] using h.no_fault
  · simpa [hawait] using ha
  · simpa [hrsp] using hr
  · simpa [hport] using hnone
  · simpa [orphansFromBlock, horphans, hcfg] using h.orphans
  · simpa [hcfg] using followTrace_snoc hq hdone
  · simpa [henv] using h.memory

/-- A response that moves the command to its next phase: the trace has moved with it. -/
theorem ResponseTaken.advance (h : ResponseTaken r s) {u : State} {q : TracePos}
    (hkept : HandshakeKept s u) (hl : CommandLatched u) (hout : OutputsPending u)
    (hq : followTrace s.cfg u.trace = some q) (hfit : positionFits u q) : GoodState u := by
  obtain ⟨hcfg, hfault, hawait, hrsp, hport, horphans, henv⟩ := hkept
  obtain ⟨ha, hr, hnone⟩ := h.outstanding
  exact {
    registers := .of_inProgress hl (hfault.trans h.no_fault) (by simp [hrsp, hr])
      (by simp [hport, hnone, hawait, ha]) hout
    orphans := by simpa only [orphansFromBlock, horphans, hcfg] using h.orphans
    trace := ⟨q, hcfg ▸ hq, hfit⟩
    memory := henv ▸ h.memory }

theorem ResponseTaken.storeFailval (h : ResponseTaken r s) {f : FailureValue} (hr : r = .fail f) :
    GoodState (Machine.finish Result.busFail (storeFailval f s)) := by
  obtain ⟨q, hq, hclosing⟩ := h.closing
  obtain ⟨-, -, hid, hlen⟩ := h.pending
  exact h.finish ⟨rfl, rfl, rfl, rfl, rfl, rfl, rfl⟩ (by simp [OutputsMatch, hid, hlen]) hq
    (hclosing f hr ▸ followEvent_done_closing ..)

theorem ResponseTaken.failReceive (h : ResponseTaken r s) {f : FailureValue} (hr : r = .fail f) :
    GoodState (Machine.finish Result.busFail (failReceiveOutputs (Machine.storeFailval f s))) := by
  obtain ⟨q, hq, hclosing⟩ := h.closing
  exact h.finish ⟨rfl, rfl, rfl, rfl, rfl, rfl, rfl⟩ (by simp [OutputsMatch]) hq
    (hclosing f hr ▸ followEvent_done_closing ..)

theorem ResponseTaken.loadAcknowledged (h : ResponseTaken .ok s) (hp : s.phase = Phase.txLoad) :
    GoodState (loadAcknowledged s) := by
  obtain ⟨before, p, htrace, hbefore, hfit⟩ := h.trace
  obtain ⟨slot, hslot, rfl⟩ := (positionFits_txLoad (s := { s with await := true }) hp).1 hfit
  have hl : CommandLatched (Machine.loadAcknowledged s) :=
    h.latched.imp (fun ht => ⟨.inr rfl, ht.2⟩) fun hr => absurd hr.1 (inTransmit.not_inReceive (.inl hp))
  refine h.advance ⟨rfl, rfl, rfl, rfl, rfl, rfl, rfl⟩ hl h.pending
    (htrace ▸ followTrace_snoc (q := .loaded slot) hbefore rfl)
    ((positionFits_txRts rfl).2 ⟨slot, hslot, ?_⟩)
  simp [h.outstanding.1]

theorem ResponseTaken.storeImage {b : Image} (h : ResponseTaken (.okBytes b) s) (hp : s.phase = Phase.rxBuf) :
    GoodState (storeImage b s) := by
  obtain ⟨before, p, htrace, hbefore, hfit⟩ := h.trace
  obtain ⟨slot, hslot, rfl⟩ := (positionFits_rxBuf (s := { s with await := true }) hp).1 hfit
  have hl : CommandLatched (Machine.storeImage b s) :=
    h.latched.imp (fun ht => absurd (.inl hp) (inTransmit.not_inReceive ht.1)) fun hr => ⟨.inr rfl, hr.2⟩
  refine h.advance ⟨rfl, rfl, rfl, rfl, rfl, rfl, rfl⟩ hl h.pending
    (htrace ▸ followTrace_snoc (q := .bufferRead slot) hbefore rfl)
    ((positionFits_rxCtrl rfl).2 ⟨slot, hslot, ?_⟩)
  simp [h.outstanding.1]

theorem ResponseTaken.completeOk (h : ResponseTaken .ok s) (hp : s.phase = Phase.txRts) : GoodState (completeOk s) := by
  obtain ⟨before, p, htrace, hbefore, hfit⟩ := h.trace
  obtain ⟨slot, -, rfl⟩ := (positionFits_txRts (s := { s with await := true }) hp).1 hfit
  obtain ⟨-, hfailval, hid, hlen⟩ := h.pending
  exact h.finish ⟨rfl, rfl, rfl, rfl, rfl, rfl, rfl⟩
    (by simp [OutputsMatch, hfailval, hid, hlen, Result.ok, Result.busFail])
    (htrace ▸ followTrace_snoc (q := .closing Result.ok) hbefore rfl) (followEvent_done_closing ..)

theorem ResponseTaken.receiveDone {v : Byte} (h : ResponseTaken (.okByte v) s) (hp : s.phase = Phase.rxCtrl) :
    GoodState (receiveDone v s) := by
  obtain ⟨before, p, htrace, hbefore, hfit⟩ := h.trace
  obtain ⟨slot, -, rfl⟩ := (positionFits_rxCtrl (s := { s with await := true }) hp).1 hfit
  have hread : followTrace s.cfg s.trace = some (.delivering 0) := htrace ▸ followTrace_snoc hbefore rfl
  obtain ⟨n, hwrites⟩ := followTrace_writes (receivedBytes s.buf) hread
    (by have := receivedBytes_length s.buf; omega)
  exact h.finish (u := decodeFrame v (storeStat v s)) ⟨rfl, rfl, rfl, rfl, rfl, rfl, rfl⟩
    (by simp [OutputsMatch, h.pending.2.1, Result.ok, Result.busFail]) hwrites (followEvent_done_delivering ..)

theorem ResponseTaken.badResponse (h : ResponseTaken r s) : GoodState (raiseFault FaultCode.badResponse s) :=
  goodState_raiseFault (by decide) h.pending.outputsMatch (by simpa [h.outstanding.2.2] using h.orphans)
    (h.closing.imp fun _ hq => hq.1) h.memory

/-- Every arm of the consume step ends in a good state. -/
theorem ResponseTaken.consumed (h : ResponseTaken r s) {t : State} (ht : ConsumeEffect r s t) : GoodState t := by
  cases ht with
  | failed f hr _ => exact h.storeFailval hr
  | receiveFailed f hr _ => exact h.failReceive hr
  | loaded hp hr => exact (hr ▸ h).loadAcknowledged hp
  | requested hp hr => exact (hr ▸ h).completeOk hp
  | bufferRead b hp hr => exact (hr ▸ h).storeImage hp
  | received v hp hr => exact (hr ▸ h).receiveDone hp
  | wrongShape => exact h.badResponse

end consuming

/-- Every turn from a good state gives a good state. -/
theorem GoodState.turnEffect {s t : State} {e : Turn} (h : GoodState s) (ht : TurnEffect s e t) : GoodState t := by
  cases ht with
  | outside _ o ho => exact h.withSurroundings ho
  | answered _ r o ho ha => exact (h.withSurroundings ho).storeResponse ha r
  | rejected _ _ din _ _ hcode => exact (h.provideDin din).raiseFault ⟨hcode.1, Nat.le_succ_of_le hcode.2⟩
  | transmitAccepted _ id din slot len hp _ hslot => exact (h.provideDin din).acceptTransmit hp hslot len id
  | receiveAccepted _ _ din slot hp _ hslot => exact (h.provideDin din).acceptReceive hp hslot
  | issued T hp ha hT => exact h.issue hp ha hT
  | consumed r _ hp ha hr ht => exact (h.takeResponse hp ha hr).consumed (consumeStep_effect ht)
  | reset => exact h.reset

theorem reset_good : GoodState State.reset :=
  .of_idle rfl rfl ⟨rfl, rfl, rfl⟩ ⟨rfl, rfl, rfl⟩ (OutputsPending.outputsMatch ⟨rfl, rfl, rfl, rfl⟩) nofun rfl
    reset_memory_wf

/-! A turn of the block that is no step (R34, R181, R235). -/

theorem blockStep_waits {s : State} (hcodes : codesWritten s)
    (hwait : s.phase = Phase.idle ∨ s.phase = Phase.faulted ∨ stuckOnEnvironment s) : blockStep s = .next s := by
  rcases blockStep_cases s with ⟨f, hf, -⟩ | ⟨-, -, h⟩ | ⟨-, hidle, hfaulted, hrun⟩
  · rw [(corruptRegister_none_iff s).2 hcodes] at hf; cases hf
  · exact h
  · obtain ⟨ha, hr⟩ := (hwait.resolve_left hidle).resolve_left hfaulted
    rcases hrun with ⟨-, -, h⟩ | ⟨r, -, hsome, -⟩ | ⟨hfree, -⟩
    · exact h
    · rw [hr] at hsome; cases hsome
    · rw [ha] at hfree; cases hfree

/-! An accepted command (R180). -/

theorem acceptTransmit_of_ready {s : State} (h : ready s) {slot : BitVec 2} (hslot : isTxSlot slot = true) {len : Byte}
    (hdin : payloadCount len ≤ s.din.length) (id : LogicalId) :
    exec (.transmit slot len id) s = .next (acceptTransmit slot len id s) := by
  have hle : slot.toNat ≤ 2 := Nat.le_of_lt_succ (of_decide_eq_true hslot)
  rcases execTransmit_cases slot len id s with hgate | ⟨-, ⟨hgt, -⟩ | ⟨-, hlt, -⟩ | ⟨-, -, haccept⟩⟩
  · rw [acceptGate_open h.1 h.2] at hgate; cases hgate
  · omega
  · omega
  · exact haccept

theorem acceptReceive_of_ready {s : State} (h : ready s) {slot : BitVec 2} (hslot : isRxSlot slot = true) :
    exec (.receive slot) s = .next (acceptReceive slot s) := by
  have hle : slot.toNat ≤ 1 := Nat.le_of_lt_succ (of_decide_eq_true hslot)
  rcases execReceive_cases slot s with hgate | ⟨-, ⟨hgt, -⟩ | ⟨-, haccept⟩⟩
  · rw [acceptGate_open h.1 h.2] at hgate; cases hgate
  · omega
  · exact haccept

/-! A history in front of the trace (R39). -/

/-- The same machine with an earlier history in front of its trace. -/
def withHistory (history : List TraceEvent) (s : State) : State := { s with trace := history ++ s.trace }

/-- An outcome with its next state, if there is one, put through `f`. -/
def mapNext (f : State → State) : Out → Out
  | .next t => .next (f t)
  | .fault e => .fault e
  | .refused e => .refused e

section history
variable (history : List TraceEvent) (s : State)

@[simp] theorem withHistory_phase : (withHistory history s).phase = s.phase := rfl
@[simp] theorem withHistory_await : (withHistory history s).await = s.await := rfl
@[simp] theorem withHistory_rspIn : (withHistory history s).rspIn = s.rspIn := rfl
@[simp] theorem withHistory_cmdOp : (withHistory history s).cmdOp = s.cmdOp := rfl
@[simp] theorem withHistory_port : (withHistory history s).port = s.port := rfl
@[simp] theorem withHistory_din : (withHistory history s).din = s.din := rfl
@[simp] theorem withHistory_orphans : (withHistory history s).orphans = s.orphans := rfl
@[simp] theorem withHistory_requester : (withHistory history s).requester = s.requester := rfl
@[simp] theorem withHistory_agenda : (withHistory history s).agenda = s.agenda := rfl

/-! Nothing that decides between outcomes looks at the trace. -/

@[simp] theorem corruptRegister_withHistory : corruptRegister (withHistory history s) = corruptRegister s := rfl
@[simp] theorem phaseTransaction_withHistory : phaseTransaction (withHistory history s) = phaseTransaction s := rfl
@[simp] theorem scheduledFailure_withHistory : scheduledFailure (withHistory history s) = scheduledFailure s := rfl
@[simp] theorem readOut_withHistory (r : OutRegister) : readOut r (withHistory history s) = readOut r s := by
  cases r <;> rfl

/-! The operations that add events to the trace add them behind the history; the others leave it alone. -/

theorem acceptTransmit_withHistory (slot : BitVec 2) (len : Byte) (id : LogicalId) :
    acceptTransmit slot len id (withHistory history s) = withHistory history (acceptTransmit slot len id s) := by
  simp [acceptTransmit, latch, nextDraws, withHistory]

theorem issue_withHistory (t : Transaction) :
    issue t (withHistory history s) = withHistory history (issue t s) := by
  simp [issue, withHistory]

theorem takeResponse_withHistory (r : Response) :
    takeResponse r (withHistory history s) = withHistory history (takeResponse r s) := by
  simp [takeResponse, withHistory]

theorem finish_withHistory (res : BitVec 1) :
    finish res (withHistory history s) = withHistory history (finish res s) := by
  simp [finish, withHistory]

theorem decodeFrame_withHistory (v : Byte) :
    decodeFrame v (withHistory history s) = withHistory history (decodeFrame v s) := by
  simp [decodeFrame, withHistory]

theorem receiveDone_withHistory (v : Byte) :
    receiveDone v (withHistory history s) = withHistory history (receiveDone v s) := by
  have hstat : storeStat v (withHistory history s) = withHistory history (storeStat v s) := rfl
  rw [receiveDone, hstat, decodeFrame_withHistory, completeOk, finish_withHistory]
  rfl

theorem answerBlock_withHistory (r : Response) :
    answerBlock r (withHistory history s) = withHistory history (answerBlock r s) := by
  unfold answerBlock
  rw [withHistory_await, withHistory_rspIn]
  split_ifs <;> rfl

theorem respond_withHistory (r : Response) :
    respond r (withHistory history s) = withHistory history (respond r s) := by
  unfold respond
  rw [withHistory_requester]
  cases s.requester with
  | block => exact answerBlock_withHistory history s r
  | software | nobody => rfl

theorem carryOut_withHistory {effect : State → State}
    (heffect : ∀ u, effect (withHistory history u) = withHistory history (effect u)) (success : Response) :
    carryOut effect success (withHistory history s) = withHistory history (carryOut effect success s) := by
  have htake : takeTransaction (withHistory history s) = withHistory history (takeTransaction s) := rfl
  unfold carryOut
  rw [scheduledFailure_withHistory, htake, heffect]
  cases scheduledFailure s with
  | some f => exact respond_withHistory history _ _
  | none => exact respond_withHistory history _ _

/-! Presenting a command. -/

theorem acceptGate_withHistory :
    acceptGate (withHistory history s) = (acceptGate s).map (mapNext (withHistory history)) := by
  unfold acceptGate
  rw [corruptRegister_withHistory, withHistory_phase]
  cases corruptRegister s with
  | some f => rfl
  | none => dsimp only; split_ifs <;> rfl

theorem acceptIllegal_withHistory :
    acceptIllegal (withHistory history s) = mapNext (withHistory history) (acceptIllegal s) := by
  unfold acceptIllegal
  rw [acceptGate_withHistory]
  cases acceptGate s <;> rfl

/-! The transactions and the commands. -/

theorem exec_withHistory (i : Instr) :
    exec i (withHistory history s) = mapNext (withHistory history) (exec i s) := by
  have served : ∀ (effect : State → State) (success : Response),
      (∀ u, effect (withHistory history u) = withHistory history (effect u)) →
      (Host.Outcome.next (carryOut effect success (withHistory history s)) : Out) =
        mapNext (withHistory history) (.next (carryOut effect success s)) :=
    fun effect success heffect => congrArg _ (carryOut_withHistory history s heffect success)
  cases i with
  | transmit slot len id =>
    simp only [exec, execTransmit, acceptGate_withHistory, acceptTransmit_withHistory, withHistory_din]
    cases acceptGate s with
    | some o => rfl
    | none => dsimp only [Option.map]; split_ifs <;> rfl
  | receive slot =>
    simp only [exec, execReceive, acceptGate_withHistory]
    cases acceptGate s with
    | some o => rfl
    | none => dsimp only [Option.map]; split_ifs <;> rfl
  | loadTx slot b =>
    simp only [exec, execLoadTx]
    cases txSlot? slot with
    | none => rfl
    | some k => exact served (storeTxb k b) .ok fun _ => rfl
  | reqSend slot =>
    simp only [exec, execReqSend]
    cases txSlot? slot with
    | none => rfl
    | some k => exact served (setTxreq k true) .ok fun _ => rfl
  | readRx slot =>
    simp only [exec, execReadRx]
    cases rxSlot? slot with
    | none => rfl
    | some k => exact served id (.okBytes s.env.rxb[k]) fun _ => rfl
  | readReg a => exact served (fixRegister a) (.okByte (registerValue a s)) fun _ => rfl
  | writeReg a v => exact served (writeRegister a v) .ok fun _ => rfl
  | modifyReg a m v =>
    exact served (fun t => writeRegister a (maskedUpdate (registerValue a t) m v) (fixRegister a t)) .ok fun _ => rfl

theorem performTransaction_withHistory (who : Requester) (t : Transaction) :
    performTransaction who t (withHistory history s) = mapNext (withHistory history) (performTransaction who t s) := by
  unfold performTransaction
  cases decodeTransaction t with
  | ok i => exact exec_withHistory history (serveFor who s) i
  | error e => rfl

theorem presentCommand_withHistory (cmdw : BitVec 16) (id : LogicalId) (din : List Byte) :
    presentCommand cmdw id din (withHistory history s) =
      mapNext (withHistory history) (presentCommand cmdw id din s) := by
  unfold presentCommand
  cases decodeCommand cmdw id with
  | ok i => exact exec_withHistory history (provideDin din s) i
  | error e => exact acceptIllegal_withHistory history (provideDin din s)

/-! The block's turn. -/

theorem completeFail_withHistory (f : FailureValue) :
    completeFail f (withHistory history s) = mapNext (withHistory history) (completeFail f s) := by
  have hfail : storeFailval f (withHistory history s) = withHistory history (storeFailval f s) := rfl
  have hopen : ∀ u, failReceiveOutputs (withHistory history u) = withHistory history (failReceiveOutputs u) :=
    fun _ => rfl
  unfold completeFail
  simp only [withHistory_cmdOp, hfail, hopen, finish_withHistory]
  cases readWritten .cmdOp s.cmdOp with
  | error e => rfl
  | ok op => dsimp only; split_ifs <;> rfl

theorem consumeStep_withHistory (r : Response) :
    consumeStep r (withHistory history s) = mapNext (withHistory history) (consumeStep r s) := by
  unfold consumeStep
  rw [takeResponse_withHistory]
  cases r with
  | fail f => exact completeFail_withHistory history _ f
  | ok =>
    simp only [consumeArm, withHistory_phase, completeOk, finish_withHistory]
    split_ifs <;> rfl
  | okBytes b =>
    simp only [consumeArm]
    rw [withHistory_phase]
    split_ifs <;> rfl
  | okByte v =>
    simp only [consumeArm, withHistory_phase, receiveDone_withHistory]
    split_ifs <;> rfl

theorem blockStep_withHistory :
    blockStep (withHistory history s) = mapNext (withHistory history) (blockStep s) := by
  have hissue : issueStep (withHistory history s) = mapNext (withHistory history) (issueStep s) := by
    unfold issueStep
    simp only [phaseTransaction_withHistory, issue_withHistory]
    cases phaseTransaction s <;> rfl
  unfold blockStep
  simp only [corruptRegister_withHistory, withHistory_phase, withHistory_await, withHistory_rspIn, hissue,
    consumeStep_withHistory]
  cases corruptRegister s with
  | some f => rfl
  | none =>
    dsimp only
    split_ifs
    · rfl
    · cases s.rspIn <;> rfl
    · rfl

/-- Every turn but a reset computes nothing from the trace. -/
theorem takeTurn_withHistory {e : Turn} (he : e ≠ .reset) :
    takeTurn e (withHistory history s) = mapNext (withHistory history) (takeTurn e s) := by
  cases e with
  | block => exact blockStep_withHistory history s
  | command cmdw id din => exact presentCommand_withHistory history s cmdw id din
  | serve =>
    simp only [takeTurn, serveBlock, withHistory_port, performTransaction_withHistory]
    cases s.port <;> rfl
  | serveOrphan n =>
    simp only [takeTurn, serveOrphan, withHistory_orphans]
    cases s.orphans[n]? with
    | none => rfl
    | some t => exact performTransaction_withHistory history (dropOrphan n s) .nobody t
  | software t => exact performTransaction_withHistory history s .software t
  | read r =>
    simp only [takeTurn, callerRead, readOut_withHistory]
    cases readOut r s <;> rfl
  | answer r => exact congrArg _ (answerBlock_withHistory history s r)
  | changeTxb | changeRxb | changeReg | changeTxreq | setDin | setDout => rfl
  | reset => exact absurd rfl he

/-- The history changes neither the next turn nor what is left of the schedule. -/
theorem nextTurn_withHistory :
    nextTurn (withHistory history s) = ((nextTurn s).1, withHistory history (nextTurn s).2) := by
  unfold nextTurn
  rw [withHistory_agenda]
  cases s.agenda <;> rfl

end history

end Sys2Proof.Machine

open Sys2Proof Sys2Proof.Machine

/-- Settles O51: a good state is good under every schedule, and each effect of a turn keeps it good. -/
theorem stepKeepsGoodState : Obligations.StepKeepsGoodState := by
  intro s t h hstep
  obtain ⟨rest, -, heffect⟩ := step_effect hstep
  exact (h.keepTurns rest).turnEffect heffect

/-- Settles O9: of the effects of a turn only a raised fault and the reset write `FAULT`. -/
theorem faultRegisterWriters : Obligations.FaultRegisterWriters := by
  intro s t hstep hne
  obtain ⟨rest, -, heffect⟩ := step_effect hstep
  rcases heffect.faultReg with heq | ⟨hreset, rfl⟩ | hraised
  · exact absurd heq hne
  · exact .inl ⟨hreset, rfl, rfl⟩
  · exact .inr hraised

/-- Settles O53: no effect of a turn writes the configuration. -/
theorem configurationIsFixed : Obligations.ConfigurationIsFixed := by
  intro s t hstep
  obtain ⟨rest, -, heffect⟩ := step_effect hstep
  exact heffect.cfg

/-- Settles O50: the state after reset is in IDLE with nothing outstanding and an empty trace. -/
theorem resetIsGood : Obligations.ResetIsGood := reset_good

/-- Settles O28: with its codes written, a block that waits takes none of the steps of `blockStep`. -/
theorem blockWithoutStepWaits : Obligations.BlockWithoutStepWaits := by
  intro s hcodes hblock hwait
  obtain ⟨rest, hrest⟩ := nextTurn_rest s
  rw [step_eq, hblock, hrest]
  exact blockStep_waits (s := keepTurns rest s) hcodes hwait

/-- Settles O13: an accepted command writes its operands, draws and constants, and its events are the reads of `DIN`. -/
theorem acceptanceKeepsNothing : Obligations.AcceptanceKeepsNothing := by
  intro s1 s2 i hi hslot h1 h2 hcfg hdin hdraws hbytes
  cases i with
  | transmit slot len id =>
    refine ⟨_, _, dinReads len, acceptTransmit_of_ready h1 hslot hbytes id,
      acceptTransmit_of_ready h2 hslot (hdin ▸ hbytes) id, ?_⟩
    simp [nextDraws, hcfg, hdin, hdraws]
  | receive slot =>
    refine ⟨_, _, [], acceptReceive_of_ready h1 hslot, acceptReceive_of_ready h2 hslot, ?_⟩
    simp [nextDraws, hdraws]
  | loadTx | reqSend | readRx | readReg | writeReg | modifyReg => cases hi

/-- Settles O57: every turn but a reset commutes with putting a history in front of the trace. -/
theorem traceIsNeverRead : Obligations.TraceIsNeverRead := by
  intro s t history hreset hstep
  have hturn : step (withHistory history s) = mapNext (withHistory history) (step s) := by
    rw [step_eq, nextTurn_withHistory, step_eq s]
    exact takeTurn_withHistory history (nextTurn s).2 hreset
  rw [hstep] at hturn
  exact hturn

/-- Settles O21: a response follows its requester, and the block's goes in only where it is awaited. -/
theorem responseGoesToRequester : Obligations.ResponseGoesToRequester := by
  refine fun s r => ⟨fun hq ha hr => respond_block r hq ha hr, fun hq hnot => ?_, fun hq => ?_, fun hq => ?_⟩
  · have hkept : answerBlock r s = s := if_neg fun ⟨ha, hr⟩ => hnot.elim (fun h => by simp [ha] at h) (· hr)
    simp only [respond, hq, hkept]
  · simp only [respond, hq, answerSoftware]
  · simp only [respond, hq]
end

section
/-! PROOFS. The caller's spaces and the controller (20_memory.md, 42_register_io.md): what each transaction does to the
controller and what it leaves, what a command and a turn of the block leave, and who writes `DIN`'s events and `DOUT`. -/

namespace Sys2Proof.Machine

/-- An outcome has one next state. -/
theorem next_unique {o : Out} {s t : State} (hs : o = .next s) (ht : o = .next t) : s = t :=
  Host.Outcome.next.inj (hs.symm.trans ht)

/-! Carrying out a transaction (R93, R217). -/

/-- A scheduled failure is answered, and nothing is done. -/
theorem carryOut_of_scheduled {s : State} {f : FailureValue} (h : s.env.fails.lookup s.env.taken = some f)
    (effect : State → State) (success : Response) :
    carryOut effect success s = respond (.fail f) (takeTransaction s) := by
  simp only [carryOut, scheduledFailure, h]

/-- Without a scheduled failure the effect is done and its success answered. -/
theorem carryOut_of_noFailure {s : State} (h : noFailure s) (effect : State → State) (success : Response) :
    carryOut effect success s = respond success (effect (takeTransaction s)) := by
  simp only [carryOut, scheduledFailure, h]

/-- The environment after a transaction: one more taken, and the effect done or not. -/
theorem carryOut_env (effect : State → State) (success : Response) (s : State) :
    (carryOut effect success s).env = { s.env with taken := s.env.taken + 1 } ∨
    (carryOut effect success s).env = (effect (takeTransaction s)).env := by
  rcases carryOut_cases effect success s with ⟨f, -, h⟩ | ⟨-, h⟩
  · exact .inl (by rw [h, respond_env, takeTransaction_env])
  · exact .inr (by rw [h, respond_env])

/-! The three transactions that name a buffer, where the buffer is one (R211, R212, R213). -/

theorem exec_loadTx {slot : BitVec 2} (h : slot.toNat < 3) (b : Image) (s : State) :
    exec (.loadTx slot b) s = .next (carryOut (storeTxb ⟨slot.toNat, h⟩ b) .ok s) := by
  simp only [exec, execLoadTx, txSlot?_of_lt h]

theorem exec_reqSend {slot : BitVec 2} (h : slot.toNat < 3) (s : State) :
    exec (.reqSend slot) s = .next (carryOut (setTxreq ⟨slot.toNat, h⟩ true) .ok s) := by
  simp only [exec, execReqSend, txSlot?_of_lt h]

theorem exec_readRx {slot : BitVec 2} (h : slot.toNat < 2) (s : State) :
    exec (.readRx slot) s = .next (carryOut id (.okBytes s.env.rxb[slot.toNat]) s) := by
  simp only [exec, execReadRx, rxSlot?_of_lt h]
  rfl

section noFailure
variable {s : State} (hno : noFailure s)
include hno

theorem exec_loadTx_of_noFailure {slot : BitVec 2} (h : slot.toNat < 3) (b : Image) :
    exec (.loadTx slot b) s = .next (respond .ok
      { s with env := { s.env with txb := s.env.txb.set slot.toNat b, taken := s.env.taken + 1 } }) := by
  rw [exec_loadTx h, carryOut_of_noFailure hno]
  rfl

theorem exec_reqSend_of_noFailure {slot : BitVec 2} (h : slot.toNat < 3) :
    exec (.reqSend slot) s = .next (respond .ok
      { s with env := { s.env with txreq := s.env.txreq.set slot.toNat true, taken := s.env.taken + 1 } }) := by
  rw [exec_reqSend h, carryOut_of_noFailure hno]
  rfl
end noFailure

/-- A transaction that names a buffer, or needs none, is carried out. -/
theorem exec_carriesOut {i : Instr} (hi : isTransaction i = true) (hw : i.wellFormed = true) (s : State) :
    ∃ effect success, exec i s = .next (carryOut effect success s) := by
  cases i with
  | transmit | receive => cases hi
  | loadTx slot b => exact ⟨_, _, exec_loadTx (of_decide_eq_true hw) b s⟩
  | reqSend slot => exact ⟨_, _, exec_reqSend (of_decide_eq_true hw) s⟩
  | readRx slot => exact ⟨_, _, exec_readRx (of_decide_eq_true hw) s⟩
  | readReg | writeReg | modifyReg => exact ⟨_, _, rfl⟩

/-- A transaction that answers names a buffer, or needs none. -/
theorem wellFormed_of_exec_next {i : Instr} {s t : State} (hi : isTransaction i = true) (h : exec i s = .next t) :
    i.wellFormed = true := by
  rcases execTransaction_cases i s hi with ⟨-, hc⟩ | ⟨hw, -⟩
  · rw [hc] at h; cases h
  · exact hw

/-! What a transaction does to the controller. -/

/-- The environment after a transaction that answers: one constructor per space a transaction can write. -/
inductive EnvEffect (e : Env) : Instr → Env → Prop where
  /-- Nothing is written: a scheduled failure, or a READ_RX (R213, R217). -/
  | counted (i : Instr) : EnvEffect e i { e with taken := e.taken + 1 }
  /-- A LOAD_TX writes the transmit buffer of its slot (R211). -/
  | loaded (slot : BitVec 2) (b : Image) (h : slot.toNat < 3) :
      EnvEffect e (.loadTx slot b) { e with txb := e.txb.set slot.toNat b, taken := e.taken + 1 }
  /-- A REQ_SEND sets the request of its slot (R212). -/
  | requested (slot : BitVec 2) (h : slot.toNat < 3) :
      EnvEffect e (.reqSend slot) { e with txreq := e.txreq.set slot.toNat true, taken := e.taken + 1 }
  /-- The register transactions leave every register but that of their address (R214, R215, R216). -/
  | register (i : Instr) (a : Byte) (m : Memory)
      (hi : i = .readReg a ∨ (∃ v, i = .writeReg a v) ∨ ∃ mask v, i = .modifyReg a mask v)
      (hm : ∀ b, b ≠ a.toNat → readCell m b = readCell e.reg b) :
      EnvEffect e i { e with reg := m, taken := e.taken + 1 }

theorem carryOut_envEffect {i : Instr} {effect : State → State} {s : State}
    (h : EnvEffect s.env i (effect (takeTransaction s)).env) (success : Response) :
    EnvEffect s.env i (carryOut effect success s).env := by
  rcases carryOut_env effect success s with hc | hc
  · exact hc ▸ .counted i
  · exact hc ▸ h

theorem exec_envEffect {i : Instr} {s t : State} (hi : isTransaction i = true) (h : exec i s = .next t) :
    EnvEffect s.env i t.env := by
  have hw := wellFormed_of_exec_next hi h
  cases i with
  | transmit | receive => cases hi
  | loadTx slot b =>
    have hslot := of_decide_eq_true hw
    exact next_unique (exec_loadTx hslot b s) h ▸ carryOut_envEffect (.loaded slot b hslot) _
  | reqSend slot =>
    have hslot := of_decide_eq_true hw
    exact next_unique (exec_reqSend hslot s) h ▸ carryOut_envEffect (.requested slot hslot) _
  | readRx slot =>
    exact next_unique (exec_readRx (of_decide_eq_true hw) s) h ▸ carryOut_envEffect (.counted _) _
  | readReg a =>
    exact Host.Outcome.next.inj h ▸ carryOut_envEffect
      (.register (e := s.env) _ a _ (.inl rfl) fun b hb => readCell_fixRegister_other a b (takeTransaction s) hb.symm) _
  | writeReg a v =>
    exact Host.Outcome.next.inj h ▸ carryOut_envEffect
      (.register _ a _ (.inr (.inl ⟨v, rfl⟩)) fun b hb => readCell_writeCell_other _ _ b _ hb.symm) _
  | modifyReg a m v =>
    exact Host.Outcome.next.inj h ▸ carryOut_envEffect
      (.register (e := s.env) _ a _ (.inr (.inr ⟨m, v, rfl⟩)) fun b hb =>
        (readCell_writeCell_other _ _ b _ hb.symm).trans
          (readCell_fixRegister_other a b (takeTransaction s) hb.symm)) _

/-! The registers of the controller (R77, R214, R216). -/

/-- Reading a register whose value is fixed changes nothing. -/
theorem fixRegister_of_fixed {a v : Byte} {s : State} (h : readCell s.env.reg a.toNat = some v) :
    fixRegister a s = s := by
  simp [fixRegister, h]

theorem registerValue_of_fixed {a v : Byte} {s : State} (h : readCell s.env.reg a.toNat = some v) :
    registerValue a s = v := by
  simp [registerValue, h]

/-- A modified bit under the mask is the value's. -/
theorem getLsbD_maskedUpdate_set (old value : Byte) {mask : Byte} {k : Nat} (h : mask.getLsbD k = true) :
    (maskedUpdate old mask value).getLsbD k = value.getLsbD k := by
  simp [maskedUpdate, h]

/-- A modified bit outside the mask is the old one. -/
theorem getLsbD_maskedUpdate_clear (old value : Byte) {mask : Byte} {k : Nat} (h : mask.getLsbD k = false) :
    (maskedUpdate old mask value).getLsbD k = old.getLsbD k := by
  simp only [maskedUpdate, BitVec.getLsbD_or, BitVec.getLsbD_and, BitVec.getLsbD_not, h]
  by_cases hk : k < 8
  · simp [hk]
  · simp [BitVec.getLsbD_of_ge old k (Nat.le_of_not_lt hk)]

/-! A presented command (R70, R72, R180). -/

/-- Everything a command that answers can do: held in FAULTED, a fault, or accepted. -/
inductive CommandEffect (s : State) : Instr → State → Prop where
  | held (i : Instr) : CommandEffect s i s
  | rejected (i : Instr) (code : BitVec 3) : CommandEffect s i (raiseFault code s)
  | transmitAccepted (slot : BitVec 2) (len : Byte) (id : LogicalId) :
      CommandEffect s (.transmit slot len id) (acceptTransmit slot len id s)
  | receiveAccepted (slot : BitVec 2) : CommandEffect s (.receive slot) (acceptReceive slot s)

theorem acceptGate_effect {s t : State} (i : Instr) (h : acceptGate s = some (.next t)) : CommandEffect s i t := by
  rcases acceptGate_cases s with ⟨f, -, hc⟩ | ⟨-, -, hc⟩ | ⟨-, -, hc⟩ | ⟨-, -, -, hc⟩
  · rw [hc] at h; cases h
  · exact Host.Outcome.next.inj (Option.some.inj (hc.symm.trans h)) ▸ .held i
  · rw [hc] at h; cases h
  · exact Host.Outcome.next.inj (Option.some.inj (hc.symm.trans h)) ▸ .rejected i _

theorem exec_commandEffect {i : Instr} {s t : State} (hi : isTransaction i = false) (h : exec i s = .next t) :
    CommandEffect s i t := by
  cases i with
  | transmit slot len id =>
    change execTransmit slot len id s = .next t at h
    rcases execTransmit_cases slot len id s with hgate | ⟨-, ⟨-, hc⟩ | ⟨-, -, hc⟩ | ⟨-, -, hc⟩⟩
    · exact acceptGate_effect _ (hgate.trans (congrArg some h))
    · exact next_unique hc h ▸ .rejected _ _
    · exact next_unique hc h ▸ .rejected _ _
    · exact next_unique hc h ▸ .transmitAccepted slot len id
  | receive slot =>
    change execReceive slot s = .next t at h
    rcases execReceive_cases slot s with hgate | ⟨-, ⟨-, hc⟩ | ⟨-, hc⟩⟩
    · exact acceptGate_effect _ (hgate.trans (congrArg some h))
    · exact next_unique hc h ▸ .rejected _ _
    · exact next_unique hc h ▸ .receiveAccepted slot
  | loadTx | reqSend | readRx | readReg | writeReg | modifyReg => cases hi

/-- A presented command writes neither the controller nor `DOUT`. -/
theorem presentCommand_frame {cmdw : BitVec 16} {id : LogicalId} {din : List Byte} {s t : State}
    (h : presentCommand cmdw id din s = .next t) : t.env = s.env ∧ t.dout = s.dout := by
  rcases presentCommand_cases cmdw id din s with ⟨f, -, hc⟩ |
    ⟨-, ⟨-, hc⟩ | ⟨-, -, hc⟩ | ⟨-, ⟨code, -, -, hc⟩ | ⟨slot, len, -, -, -, hc⟩ | ⟨slot, -, -, hc⟩⟩⟩
  · rw [hc] at h; cases h
  all_goals
    obtain rfl := next_unique hc h
    exact ⟨rfl, rfl⟩

/-! The block's turn (R70, R181). -/

/-- Everything the block's turn that answers can do: no step, an issue step, or a consume step. Where it has no step the
whole state is as it was, which `TurnEffect.outside` says of the block's registers only. -/
theorem blockStep_next {s t : State} (h : blockStep s = .next t) :
    t = s ∨ (∃ T, t = issue T s) ∨ (inProgress s ∧ ∃ r, ConsumeEffect r (takeResponse r s) t) := by
  rcases blockStep_cases s with ⟨f, -, hc⟩ | ⟨-, -, hc⟩ | ⟨hcodes, hidle, hfaulted, hrun⟩
  · rw [hc] at h; cases h
  · exact .inl (next_unique h hc)
  · rcases hrun with ⟨-, -, hc⟩ | ⟨r, -, -, hc⟩ | ⟨-, hc⟩
    · exact .inl (next_unique h hc)
    · obtain ⟨h5, h6, -⟩ := (corruptRegister_none_iff s).1 hcodes
      exact .inr (.inr ⟨inProgress_of_phase h5 h6 hidle hfaulted, r, consumeStep_effect (hc.symm.trans h)⟩)
    · rcases issueStep_cases s with ⟨T, -, hi⟩ | ⟨f, -, hi⟩
      · exact .inr (.inl ⟨T, next_unique h (hc.trans hi)⟩)
      · rw [hc, hi] at h; cases h

theorem ConsumeEffect.env {r : Response} {s t : State} (h : ConsumeEffect r s t) : t.env = s.env := by
  cases h <;> rfl

/-- The block writes nothing of the controller (R70). -/
theorem blockStep_env {s t : State} (h : blockStep s = .next t) : t.env = s.env := by
  rcases blockStep_next h with rfl | ⟨T, rfl⟩ | ⟨-, r, hc⟩
  · rfl
  · rfl
  · exact hc.env

/-! The writers of `DOUT` (R72, R189). -/

/-- The consume step writes `DOUT` only as it completes a command: a RECEIVE that failed, or a decoded frame. -/
theorem ConsumeEffect.dout {r : Response} {s t : State} (h : ConsumeEffect r s t) :
    t.dout = s.dout ∨
    ((s.cmdOp = some CmdOp.receive ∨ s.phase = Phase.rxCtrl) ∧ t.phase = Phase.idle ∧ t.result ≠ none) := by
  cases h with
  | receiveFailed f hr hop => exact .inr ⟨.inl hop, rfl, Option.some_ne_none _⟩
  | received v hp hr => exact .inr ⟨.inr hp, rfl, Option.some_ne_none _⟩
  | failed | loaded | requested | bufferRead | wrongShape => exact .inl rfl

/-- While a command is in progress the latched operation says which one. -/
theorem RegistersAgree.inReceive_of_cmdOp {s : State} (h : RegistersAgree s) (hp : inProgress s)
    (hop : s.cmdOp = some CmdOp.receive) : inReceive s := by
  refine hp.resolve_left fun htransmit => ?_
  rw [(h.transmit_latched htransmit).1] at hop
  exact absurd hop (by decide)

theorem blockStep_dout {s t : State} (hagree : RegistersAgree s) (h : blockStep s = .next t) :
    t.dout = s.dout ∨ (inReceive s ∧ t.phase = Phase.idle ∧ t.result ≠ none) := by
  rcases blockStep_next h with rfl | ⟨T, rfl⟩ | ⟨hp, r, hc⟩
  · exact .inl rfl
  · exact .inl rfl
  · refine hc.dout.imp_right fun ⟨hwho, hdone⟩ => ⟨?_, hdone⟩
    exact hwho.elim (hagree.inReceive_of_cmdOp hp) .inr

theorem performTransaction_dout {who : Requester} {T : Transaction} {s t : State}
    (h : performTransaction who T s = .next t) : t.dout = s.dout := by
  rcases performTransaction_cases who T s with ⟨_, -, hc⟩ | ⟨i, -, ⟨-, hc⟩ | ⟨-, r, env, d, hc, -⟩⟩
  · rw [hc] at h; cases h
  · rw [hc] at h; cases h
  · rw [← next_unique hc h, respond_dout]

/-- No turn but the block's and the caller's own writes `DOUT`. -/
theorem takeTurn_dout {e : Turn} {s t : State} (h : takeTurn e s = .next t) :
    t.dout = s.dout ∨ (∃ d, e = .setDout d) ∨ e = .block := by
  cases e with
  | block => exact .inr (.inr rfl)
  | setDout d => exact .inr (.inl ⟨d, rfl⟩)
  | command cmdw id din => exact .inl (presentCommand_frame h).2
  | serve =>
    simp only [takeTurn, serveBlock] at h
    split at h
    · exact .inl (Host.Outcome.next.inj h ▸ rfl)
    · exact .inl (performTransaction_dout h)
  | serveOrphan n =>
    simp only [takeTurn, serveOrphan] at h
    split at h
    · exact .inl (Host.Outcome.next.inj h ▸ rfl)
    · have hdout := performTransaction_dout h
      exact .inl hdout
  | software T => exact .inl (performTransaction_dout h)
  | read r =>
    simp only [takeTurn, callerRead] at h
    split at h
    · exact .inl (Host.Outcome.next.inj h ▸ rfl)
    · cases h
  | answer r => exact .inl (Host.Outcome.next.inj h ▸ answerBlock_dout r s)
  | changeTxb | changeRxb | changeReg | changeTxreq | setDin | reset =>
    obtain rfl := Host.Outcome.next.inj h
    exact .inl rfl

/-! The reads of `DIN` (R71, R193). -/

theorem dinRead_mem_dinReads {k : Nat} {len : Byte} : .dinRead k ∈ dinReads len ↔ k < payloadCount len := by
  simp [dinReads]

theorem dinRead_notMem_doutWrites (k : Nat) (bytes : List Byte) (i : Nat) : .dinRead k ∉ doutWrites bytes i := by
  induction bytes generalizing i with
  | nil => simp [doutWrites]
  | cons x xs ih => simp [doutWrites, ih]

/-- A consume step reads no byte of `DIN`. -/
theorem ConsumeEffect.count_dinRead {r : Response} {s t : State} (h : ConsumeEffect r s t) (k : Nat) :
    t.trace.count (.dinRead k) = s.trace.count (.dinRead k) := by
  cases h with
  | loaded | bufferRead | wrongShape => rfl
  | failed | receiveFailed | requested => simp [completeOk]
  | received v =>
    have hnone : (doutWrites (receivedBytes s.buf) 0).count (.dinRead k) = 0 :=
      List.count_eq_zero.2 (dinRead_notMem_doutWrites k _ 0)
    simp [receiveDone, completeOk, hnone]

/-- Only the acceptance of a TRANSMIT reads a byte of `DIN`, one below its payload count. -/
theorem TurnEffect.dinRead {s t : State} {e : Turn} (h : TurnEffect s e t) {k : Nat}
    (hk : s.trace.count (.dinRead k) < t.trace.count (.dinRead k)) :
    ∃ cmdw id din slot len, e = .command cmdw id din ∧ s.phase = Phase.idle ∧
      decodeCommand cmdw id = .ok (.transmit slot len id) ∧ k < payloadCount len := by
  cases h with
  | outside | answered | rejected | receiveAccepted => exact absurd hk (lt_irrefl _)
  | reset => simp at hk
  | issued => simp at hk
  | consumed r _ _ _ _ ht =>
    rw [(consumeStep_effect ht).count_dinRead] at hk
    simp at hk
  | transmitAccepted cmdw id din slot len hp hd =>
    refine ⟨cmdw, id, din, slot, len, rfl, hp, hd, dinRead_mem_dinReads.1 (List.count_pos_iff.1 ?_)⟩
    simpa using hk

/-! A command served by the environment (R93, R181). -/

theorem decode_transmitWord (slot : BitVec 2) (len : Byte) (id : LogicalId) :
    decodeCommand (commandWord 0 slot len) id = .ok (.transmit slot len id) := by
  simp [decodeCommand]

/-- A command in progress can have no register that holds a code never written. -/
theorem corruptRegister_inProgress {s : State} (hp : inProgress s) (hf : s.faultReg.toNat ≤ 5) :
    corruptRegister s = none := by
  refine (corruptRegister_none_iff s).2 ?_
  rcases hp with (h | h) | (h | h) <;> rw [h] <;> exact ⟨by decide, by decide, hf⟩

theorem inProgress.phase_ne_idle {s : State} (h : inProgress s) : s.phase ≠ Phase.idle := by
  rcases h with (h | h) | (h | h) <;> rw [h] <;> decide

/-- In a transaction phase with nothing awaited the block's turn issues the phase's transaction. -/
theorem blockStep_issues {s : State} {T : Transaction} (hp : inProgress s) (hf : s.faultReg.toNat ≤ 5)
    (ha : s.await = false) (hT : phaseTransaction s = .ok T) : blockStep s = .next (issue T s) := by
  simp [blockStep, corruptRegister_inProgress hp hf, hp.phase_ne_idle, hp.phase_ne_faulted, ha, issueStep, hT]

/-- In a transaction phase with its response there the block's turn consumes it. -/
theorem blockStep_consumes {s : State} {r : Response} (hp : inProgress s) (hf : s.faultReg.toNat ≤ 5)
    (ha : s.await = true) (hr : s.rspIn = some r) : blockStep s = consumeArm r (takeResponse r s) := by
  simp [blockStep, corruptRegister_inProgress hp hf, hp.phase_ne_idle, hp.phase_ne_faulted, ha, hr, consumeStep]

/-- The state after the block has issued `T` and the environment has answered it with `r`, leaving its own state at
`env`. -/
def served (T : Transaction) (r : Response) (rest : List Turn) (env : Env) (s : State) : State :=
  storeResponse r { serveFor .block (issue T (keepTurns rest s)) with env := env }

/-- The environment carries out what the block has issued, and answers it. -/
theorem step_serve {s : State} {rest : List Turn} {T : Transaction} {i : Instr} {r : Response} {env : Env}
    (hr : s.rspIn = none) (hi : decodeTransaction T = .ok i)
    (hexec : ∀ u : State, u.env = s.env → exec i u = .next (respond r { u with env := env })) :
    step (issue T (keepTurns (.serve :: rest) s)) = .next (served T r rest env s) := by
  let asked := serveFor .block (issue T (keepTurns rest s))
  have hperform : step (issue T (keepTurns (.serve :: rest) s)) = exec i asked := by
    rw [step_of_cons rfl]
    change performTransaction .block T (issue T (keepTurns rest s)) = exec i asked
    simp only [performTransaction, hi, asked]
  have hanswer : respond r { asked with env := env } = served T r rest env s := respond_block r rfl rfl hr
  rw [hperform, hexec asked rfl, hanswer]

/-- A transaction of the block, served at once: issue, response, consume. -/
theorem run_served {s t : State} {rest : List Turn} {T : Transaction} {i : Instr} {r : Response} {env : Env}
    (hagenda : s.agenda = .block :: .serve :: .block :: rest) (hp : inProgress s) (hf : s.faultReg.toNat ≤ 5)
    (ha : s.await = false) (hr : s.rspIn = none) (hT : phaseTransaction s = .ok T) (hi : decodeTransaction T = .ok i)
    (hexec : ∀ u : State, u.env = s.env → exec i u = .next (respond r { u with env := env }))
    (ht : consumeArm r (takeResponse r (served T r rest env s)) = .next t) (k : Nat) :
    core.run (k + 3) s = core.run k t := by
  have hissue : step s = .next (issue T (keepTurns (.serve :: .block :: rest) s)) := by
    rw [step_of_cons hagenda]
    exact blockStep_issues (s := keepTurns _ s) hp hf ha hT
  have hconsume : step (served T r (.block :: rest) env s) = .next t := by
    rw [step_of_cons rfl]
    exact (blockStep_consumes (s := served T r rest env s) hp hf rfl rfl).trans ht
  rw [run_succ_next _ hissue, run_succ_next _ (step_serve hr hi hexec), run_succ_next _ hconsume]

/-! The two transactions of a TRANSMIT, served (R183, R184). -/

/-- The state after TX_LOAD, served: the image in the slot's transmit buffer, and the send request next. -/
def loadServed (slot : BitVec 2) (h : slot.toNat < 3) (rest : List Turn) (s : State) : State :=
  loadAcknowledged (takeResponse .ok (served (loadTxWord slot s.buf) .ok rest
    { s.env with txb := s.env.txb.set slot.toNat s.buf, taken := s.env.taken + 1 } s))

/-- The state after TX_RTS, served: the slot's request set, and the command completed. -/
def requestServed (slot : BitVec 2) (h : slot.toNat < 3) (rest : List Turn) (s : State) : State :=
  completeOk (takeResponse .ok (served (reqSendWord slot) .ok rest
    { s.env with txreq := s.env.txreq.set slot.toNat true, taken := s.env.taken + 1 } s))

section transmitPhases
variable {s : State} {rest : List Turn} {slot : BitVec 2}
  (hagenda : s.agenda = .block :: .serve :: .block :: rest) (hf : s.faultReg.toNat ≤ 5) (ha : s.await = false)
  (hr : s.rspIn = none) (hslot : s.cmdSlot = some slot) (h : slot.toNat < 3) (hno : noFailure s)
include hagenda hf ha hr hslot hno

theorem run_loadServed (hp : s.phase = Phase.txLoad) (k : Nat) :
    core.run (k + 3) s = core.run k (loadServed slot h rest s) := by
  have hT : phaseTransaction s = .ok (loadTxWord slot s.buf) := by simp [phaseTransaction, hslot, hp]
  have hexec : ∀ u : State, u.env = s.env → exec (.loadTx slot s.buf) u = .next (respond .ok
      { u with env := { s.env with txb := s.env.txb.set slot.toNat s.buf, taken := s.env.taken + 1 } }) :=
    fun u hu => by rw [exec_loadTx_of_noFailure (by rwa [noFailure, hu]) h, hu]
  exact run_served hagenda (.inl (.inl hp)) hf ha hr hT (decode_loadTxWord slot s.buf) hexec (if_pos hp) k

theorem run_requestServed (hp : s.phase = Phase.txRts) (k : Nat) :
    core.run (k + 3) s = core.run k (requestServed slot h rest s) := by
  have hT : phaseTransaction s = .ok (reqSendWord slot) := by
    simp [phaseTransaction, hslot, hp, Phase.txRts, Phase.txLoad]
  have hexec : ∀ u : State, u.env = s.env → exec (.reqSend slot) u = .next (respond .ok
      { u with env := { s.env with txreq := s.env.txreq.set slot.toNat true, taken := s.env.taken + 1 } }) :=
    fun u hu => by rw [exec_reqSend_of_noFailure (by rwa [noFailure, hu]) h, hu]
  have hnot : s.phase ≠ Phase.txLoad := hp ▸ by decide
  exact run_served hagenda (.inl (.inr hp)) hf ha hr hT (decode_reqSendWord slot) hexec
    ((if_neg hnot).trans (if_pos hp)) k

end transmitPhases

end Sys2Proof.Machine

open Sys2Proof Sys2Proof.Machine

/-- Settles O14: without a scheduled failure the effect of LOAD_TX is done. -/
theorem loadTxStoresImage : Obligations.LoadTxStoresImage :=
  fun _ _ b h hno => exec_loadTx_of_noFailure hno h b

/-- Settles O15: without a scheduled failure the effect of REQ_SEND is done. -/
theorem reqSendSetsRequest : Obligations.ReqSendSetsRequest :=
  fun _ _ h hno => exec_reqSend_of_noFailure hno h

/-- Settles O16: without a scheduled failure a READ_RX answers the buffer and writes nothing. -/
theorem readRxAnswersBuffer : Obligations.ReadRxAnswersBuffer := by
  intro s slot h hno
  rw [exec_readRx h, carryOut_of_noFailure hno]
  rfl

/-- Settles O17: the answer is `registerValue`, which `fixRegister` fixes, and a fixed register is left alone. -/
theorem readRegAnswersRegister : Obligations.ReadRegAnswersRegister := by
  intro s a hno
  have hread : exec (.readReg a) s =
      .next (respond (.okByte (registerValue a s)) (fixRegister a (takeTransaction s))) :=
    congrArg _ (carryOut_of_noFailure hno _ _)
  refine ⟨fun v hv => ?_, registerValue a s, fixRegister a (takeTransaction s), hread, ?_, fun b hb => ?_⟩
  · rw [hread, registerValue_of_fixed hv, fixRegister_of_fixed (s := takeTransaction s) hv]
    rfl
  · exact readCell_fixRegister a (takeTransaction s)
  · exact readCell_fixRegister_other a b (takeTransaction s) hb.symm

/-- Settles O18: the memory is that of one `writeCell`. -/
theorem writeRegStoresValue : Obligations.WriteRegStoresValue := by
  intro s a v hno
  refine ⟨writeCell s.env.reg a.toNat v, congrArg _ (carryOut_of_noFailure hno _ _), ?_, fun b hb => ?_⟩
  · exact readCell_writeCell_same _ _ _
  · exact readCell_writeCell_other _ _ _ _ hb.symm

/-- Settles O19: the new value is `maskedUpdate` of the old one, bit by bit. -/
theorem modifyRegMasksValue : Obligations.ModifyRegMasksValue := by
  intro s a m v hno
  let w := maskedUpdate (registerValue a (takeTransaction s)) m v
  refine ⟨writeRegister a w (fixRegister a (takeTransaction s)), w, congrArg _ (carryOut_of_noFailure hno _ _),
    readCell_writeCell_same _ _ _, fun b hb => ?_, fun k hk => getLsbD_maskedUpdate_set _ _ hk,
    fun old hold => ⟨fun k hk => ?_, ?_⟩⟩
  · exact (readCell_writeCell_other _ _ _ _ hb.symm).trans
      (readCell_fixRegister_other a b (takeTransaction s) hb.symm)
  · rw [getLsbD_maskedUpdate_clear _ _ hk, registerValue_of_fixed (s := takeTransaction s) hold]
  · rw [fixRegister_of_fixed (s := takeTransaction s) hold]
    rfl

/-- Settles O20: carrying out any transaction with a scheduled failure is answering that failure. -/
theorem scheduledFailureIsAnswered : Obligations.ScheduledFailureIsAnswered := by
  intro s i f hi hw hf
  obtain ⟨effect, success, hexec⟩ := exec_carriesOut hi hw s
  rw [hexec, carryOut_of_scheduled hf]
  rfl

/-- Settles O22: a transaction is an answer in a changed environment, and `EnvEffect` says which space changed. -/
theorem transactionFrame : Obligations.TransactionFrame := by
  intro s t i hi h
  have hspaces := exec_envEffect hi h
  rcases execTransaction_cases i s hi with ⟨-, hc⟩ | ⟨-, r, e, d, hc, hrxb, hfails, htaken, -⟩
  · rw [hc] at h; cases h
  · obtain rfl := next_unique hc h
    rw [respond_env] at hspaces ⊢
    refine ⟨by simp, hrxb, hfails, htaken, ?_⟩
    cases hspaces with
    | counted => cases i <;> simp
    | loaded slot b hslot => exact ⟨fun k hk => Vector.getElem_set_ne hslot k.isLt (Ne.symm hk), rfl, rfl⟩
    | requested slot hslot => exact ⟨rfl, fun k hk => Vector.getElem_set_ne hslot k.isLt (Ne.symm hk), rfl⟩
    | register _ a m hreg hm => rcases hreg with rfl | ⟨v, rfl⟩ | ⟨mask, v, rfl⟩ <;> exact ⟨rfl, rfl, hm⟩

/-- Settles O12: a command is held, rejected with a fault, or accepted, and each writes the block's registers only. -/
theorem commandFrame : Obligations.CommandFrame := by
  intro s t i hi h
  cases exec_commandEffect hi h with
  | held | rejected | transmitAccepted | receiveAccepted => simp

/-- Settles O1: `presentCommand` runs what the word decodes to. -/
theorem stepRunsDecodedCommand : Obligations.StepRunsDecodedCommand := by
  intro s rest cmdw id din i hagenda hdecode
  rw [step_of_cons hagenda]
  simp only [takeTurn, presentCommand, hdecode]
  rfl

/-- Settles O54: neither the block's turn, nor a presented command, nor the reset writes a space of the controller. -/
theorem blockNeverTouchesController : Obligations.BlockNeverTouchesController := by
  intro s t hstep hturn
  obtain ⟨rest, hrest⟩ := nextTurn_rest s
  rw [step_eq, hrest] at hstep
  rcases hturn with he | he | ⟨cmdw, id, din, he⟩ <;> rw [he] at hstep
  · simp [blockStep_env hstep]
  · simp [← Host.Outcome.next.inj hstep]
  · simp [(presentCommand_frame hstep).1]

/-- Settles O55: of the effects of a turn only the acceptance of a TRANSMIT records a read of `DIN`. -/
theorem dinReadOnlyAtAcceptance : Obligations.DinReadOnlyAtAcceptance := by
  intro s t k hstep hk
  obtain ⟨rest, -, heffect⟩ := step_effect hstep
  exact heffect.dinRead hk

/-- Settles O56: of the block's steps only the ends of a RECEIVE write `DOUT`, of the other turns only the caller's. -/
theorem doutWriters : Obligations.DoutWriters := by
  intro s t hagree hstep hne
  obtain ⟨rest, hrest⟩ := nextTurn_rest s
  rw [step_eq, hrest] at hstep
  rcases takeTurn_dout hstep with heq | hcaller | hblock
  · exact absurd heq hne
  · exact .inl hcaller
  · rw [hblock] at hstep
    have hagree' : RegistersAgree (keepTurns rest s) := { hagree with }
    exact .inr ⟨hblock, (blockStep_dout hagree' hstep).resolve_left hne⟩

/-- Settles O46: acceptance, then the two served transactions, TX_LOAD and TX_RTS. -/
theorem servedTransmitLoadsAndRequests : Obligations.ServedTransmitLoadsAndRequests := by
  intro s slot len id din rest hslot hready hdin hfails hagenda
  let accepted := acceptTransmit slot len id
    { s with agenda := [.block, .serve, .block, .block, .serve, .block] ++ rest, din := din }
  have haccept : step s = .next accepted := by
    rw [stepRunsDecodedCommand s _ _ id din _ hagenda (decode_transmitWord slot len id)]
    exact acceptTransmit_of_ready (s := { s with agenda := _, din := din }) hready (decide_eq_true hslot) hdin id
  have hno : ∀ n, s.env.fails.lookup n = none := fun n => by rw [hfails]; rfl
  have hload := run_loadServed (s := accepted) rfl hready.2 rfl rfl rfl hslot (hno _) rfl 3
  have hrequest := run_requestServed (s := loadServed slot hslot (.block :: .serve :: .block :: rest) accepted)
    rfl hready.2 rfl rfl rfl hslot (hno _) rfl 0
  exact ⟨_, (run_succ_next 6 haccept).trans (hload.trans hrequest), rfl, rfl, rfl, rfl⟩
end

section
/-! PROOFS. The encoding (30_encoding.md): a word is laid out from its own fields, so encoding undoes decoding; the
order of the acceptance checks, what the block issues and how it rejects a response, and the assembler. -/

namespace Sys2Proof.Machine

/-! A word is laid out from its own fields (R111, R118). -/

theorem commandWord_fields {w : BitVec 16} (hrsv : field 8 4 w = 0) :
    commandWord (field 14 2 w) (field 12 2 w) (field 0 8 w) = w := by
  unfold commandWord
  rw [← hrsv]
  simp (disch := rfl) only [field, BitVec.extractLsb'_append_extractLsb'_eq_extractLsb']
  exact BitVec.extractLsb'_eq_self

theorem header_fields {w : BitVec 32} (hrsv : field 24 3 w = 0) :
    header (field 29 3 w) (field 27 2 w) (field 16 8 w) (field 8 8 w) (field 0 8 w) = w := by
  unfold header
  rw [← hrsv]
  simp (disch := rfl) only [field, BitVec.extractLsb'_append_extractLsb'_eq_extractLsb']
  exact BitVec.extractLsb'_eq_self

/-! What is encoded is read back as what it stands for (R111, R118). -/

theorem decode_receiveWord (slot : BitVec 2) (id : LogicalId) :
    decodeCommand (commandWord 1 slot 0) id = .ok (.receive slot) := by
  simp [decodeCommand]

theorem decode_writeRegWord (a v : Byte) : decodeTransaction (writeRegWord a v) = .ok (.writeReg a v) := by
  simp [decodeTransaction, writeRegWord]

theorem decode_modifyRegWord (a m v : Byte) : decodeTransaction (modifyRegWord a m v) = .ok (.modifyReg a m v) := by
  simp [decodeTransaction, modifyRegWord]

/-! A word that decodes is the encoding of what it decodes to (R116, R119). -/

/-- The two bits of an `OP` that is not reserved (R116). -/
theorem op_cases {op : BitVec 2} (h : ¬ 2 ≤ op.toNat) : op = 0 ∨ op = 1 :=
  (by decide : ∀ op : BitVec 2, ¬ 2 ≤ op.toNat → op = 0 ∨ op = 1) op h

/-- The words that are no command (R117): `OP` reserved, `RSV` set, or a RECEIVE with `LEN` set. -/
abbrev IllegalWord (cmdw : BitVec 16) : Prop :=
  2 ≤ (field 14 2 cmdw).toNat ∨ field 8 4 cmdw ≠ 0 ∨ (field 14 2 cmdw = 1 ∧ field 0 8 cmdw ≠ 0)

/-- A command word is illegal, or its `OP` says which command it is (R116, R117). -/
theorem decodeCommand_cases_op (cmdw : BitVec 16) (id : LogicalId) :
    (IllegalWord cmdw ∧ decodeCommand cmdw id = .error .illegalCommand) ∨
    (¬ IllegalWord cmdw ∧ field 14 2 cmdw = 0 ∧
      decodeCommand cmdw id = .ok (.transmit (field 12 2 cmdw) (field 0 8 cmdw) id)) ∨
    (¬ IllegalWord cmdw ∧ field 14 2 cmdw = 1 ∧ decodeCommand cmdw id = .ok (.receive (field 12 2 cmdw))) := by
  by_cases hillegal : IllegalWord cmdw
  · exact .inl ⟨hillegal, if_pos hillegal⟩
  · rcases op_cases (not_or.1 hillegal).1 with h0 | h1
    · exact .inr (.inl ⟨hillegal, h0, by rw [decodeCommand, if_neg hillegal, if_pos h0]⟩)
    · exact .inr (.inr ⟨hillegal, h1, by rw [decodeCommand, if_neg hillegal, if_neg (h1 ▸ by decide)]⟩)

/-- A command word that decodes is laid out with the operands of what it decodes to; the `ID` of a RECEIVE is left out
(R112). -/
theorem encode_of_decodeCommand {cmdw : BitVec 16} {id : LogicalId} {i : Instr} (h : decodeCommand cmdw id = .ok i) :
    (field 14 2 cmdw = 0 ∧ encode i = .command cmdw id) ∨ (field 14 2 cmdw = 1 ∧ encode i = .command cmdw 0) := by
  rcases decodeCommand_cases_op cmdw id with ⟨-, hd⟩ | ⟨hlegal, hop, hd⟩ | ⟨hlegal, hop, hd⟩
  · rw [hd] at h; cases h
  all_goals
    obtain rfl := Except.ok.inj (hd.symm.trans h)
    obtain ⟨-, hrsv, hlen⟩ : ¬ 2 ≤ (field 14 2 cmdw).toNat ∧ field 8 4 cmdw = 0 ∧
      (field 14 2 cmdw = 1 → field 0 8 cmdw = 0) := by simpa [not_or] using hlegal
    have hw := commandWord_fields hrsv
  · rw [hop] at hw
    exact .inl ⟨hop, congrArg (PortWord.command · id) hw⟩
  · rw [hop, hlen hop] at hw
    exact .inr ⟨hop, congrArg (PortWord.command · 0) hw⟩

/-- The codes of `KIND` (R119). -/
theorem kind_cases (k : BitVec 3) : k = 0 ∨ k = 1 ∨ k = 2 ∨ k = 3 ∨ k = 4 ∨ k = 5 ∨ k = 6 ∨ k = 7 :=
  (by decide : ∀ k : BitVec 3, k = 0 ∨ k = 1 ∨ k = 2 ∨ k = 3 ∨ k = 4 ∨ k = 5 ∨ k = 6 ∨ k = 7) k

/-- A laid-out header that decodes is the encoding of what it decodes to, kind by kind (R119). -/
theorem encode_of_decode_header {kind : BitVec 3} {slot : BitVec 2} {a m v : Byte} {payload : List Byte} {i : Instr}
    (h : decodeTransaction ⟨header kind slot a m v, payload⟩ = .ok i) :
    encode i = .transaction ⟨header kind slot a m v, payload⟩ := by
  obtain rfl | rfl | rfl | rfl | rfl | rfl | rfl | rfl := kind_cases kind
  · cases hb : imageOfBytes payload with
    | none => simp [decodeTransaction, hb, ite_eq_iff] at h
    | some b =>
      obtain ⟨⟨rfl, rfl, rfl⟩, rfl⟩ : (a = 0 ∧ m = 0 ∧ v = 0) ∧ .loadTx slot b = i := by
        simpa [decodeTransaction, hb, ite_eq_iff] using h
      rw [← imageOfBytes_some hb]
      rfl
  · obtain ⟨rfl, ⟨rfl, rfl, rfl⟩, rfl⟩ : payload = [] ∧ (a = 0 ∧ m = 0 ∧ v = 0) ∧ .reqSend slot = i := by
      simpa [decodeTransaction, ite_eq_iff] using h
    rfl
  · obtain ⟨rfl, ⟨rfl, rfl, rfl⟩, -, rfl⟩ :
        payload = [] ∧ (a = 0 ∧ m = 0 ∧ v = 0) ∧ slot.toNat ≤ 1 ∧ .readRx slot = i := by
      simpa [decodeTransaction, ite_eq_iff] using h
    rfl
  · obtain ⟨rfl, rfl, ⟨rfl, rfl⟩, rfl⟩ : payload = [] ∧ slot = 0 ∧ (m = 0 ∧ v = 0) ∧ .readReg a = i := by
      simpa [decodeTransaction, ite_eq_iff] using h
    rfl
  · obtain ⟨rfl, rfl, rfl, rfl⟩ : payload = [] ∧ slot = 0 ∧ m = 0 ∧ .writeReg a v = i := by
      simpa [decodeTransaction, ite_eq_iff] using h
    rfl
  · obtain ⟨rfl, rfl, rfl⟩ : payload = [] ∧ slot = 0 ∧ .modifyReg a m v = i := by
      simpa [decodeTransaction, ite_eq_iff] using h
    rfl
  · simp [decodeTransaction] at h
  · simp [decodeTransaction] at h

/-- The bits that R118 keeps zero are zero in a transaction that decodes. -/
theorem header_rsv_of_decode {w : BitVec 32} {payload : List Byte} {i : Instr}
    (h : decodeTransaction ⟨w, payload⟩ = .ok i) : field 24 3 w = 0 := by
  by_contra hrsv
  rw [decodeTransaction, if_pos hrsv] at h
  cases h

theorem encode_of_decodeTransaction {t : Transaction} {i : Instr} (h : decodeTransaction t = .ok i) :
    encode i = .transaction t := by
  obtain ⟨w, payload⟩ := t
  have hrsv : field 24 3 w = 0 := header_rsv_of_decode h
  rw [← header_fields hrsv] at h ⊢
  exact encode_of_decode_header h

/-! The acceptance checks (R180, R236). -/

theorem presentCommand_of_decode {cmdw : BitVec 16} {id : LogicalId} {i : Instr} (h : decodeCommand cmdw id = .ok i)
    (din : List Byte) (s : State) : presentCommand cmdw id din s = exec i (provideDin din s) := by
  simp only [presentCommand, h]

/-- Where the acceptance gate answers, it answers for every word. -/
theorem presentCommand_of_gate {s : State} {din : List Byte} {o : Out} (h : acceptGate (provideDin din s) = some o)
    (cmdw : BitVec 16) (id : LogicalId) : presentCommand cmdw id din s = o := by
  rcases decodeCommand_cases cmdw id with hd | hd | hd
  · simp only [presentCommand, hd, acceptIllegal, h]
  · simp only [presentCommand, hd, exec, execTransmit, h]
  · simp only [presentCommand, hd, exec, execReceive, h]

/-- In IDLE the block looks at the word (R180): whether it is a command, then at its slot, then at the data it needs. -/
theorem presentCommand_of_open {s : State} {din : List Byte} (h : acceptGate (provideDin din s) = none)
    (cmdw : BitVec 16) (id : LogicalId) : presentCommand cmdw id din s =
      if IllegalWord cmdw then .next (raiseFault FaultCode.illegalCommand (provideDin din s))
      else if (field 14 2 cmdw = 0 ∧ 2 < (field 12 2 cmdw).toNat) ∨
          (field 14 2 cmdw = 1 ∧ 1 < (field 12 2 cmdw).toNat) then
        .next (raiseFault FaultCode.invalidSlot (provideDin din s))
      else if field 14 2 cmdw = 0 ∧ din.length < payloadCount (field 0 8 cmdw) then
        .next (raiseFault FaultCode.dataUnderrun (provideDin din s))
      else if field 14 2 cmdw = 0 then
        .next (acceptTransmit (field 12 2 cmdw) (field 0 8 cmdw) id (provideDin din s))
      else .next (acceptReceive (field 12 2 cmdw) (provideDin din s)) := by
  rcases decodeCommand_cases_op cmdw id with ⟨hillegal, hd⟩ | ⟨hlegal, hop, hd⟩ | ⟨hlegal, hop, hd⟩
  · rw [if_pos hillegal]
    simp only [presentCommand, hd, acceptIllegal, h]
  · rw [if_neg hlegal, presentCommand_of_decode hd]
    change execTransmit (field 12 2 cmdw) (field 0 8 cmdw) id (provideDin din s) = _
    rcases execTransmit_cases (field 12 2 cmdw) (field 0 8 cmdw) id (provideDin din s) with
      hgate | ⟨-, ⟨hslot, he⟩ | ⟨hslot, hdin, he⟩ | ⟨hslot, hdin, he⟩⟩
    · rw [h] at hgate; cases hgate
    · simp [he, hop, hslot]
    · rw [provideDin_din] at hdin
      simp [he, hop, hslot.not_gt, hdin]
    · rw [provideDin_din] at hdin
      simp [he, hop, hslot.not_gt, hdin.not_gt]
  · rw [if_neg hlegal, presentCommand_of_decode hd]
    change execReceive (field 12 2 cmdw) (provideDin din s) = _
    rcases execReceive_cases (field 12 2 cmdw) (provideDin din s) with hgate | ⟨-, ⟨hslot, he⟩ | ⟨hslot, he⟩⟩
    · rw [h] at hgate; cases hgate
    · simp [he, hop, hslot]
    · simp [he, hop, hslot.not_gt]

/-! A transaction handed to the environment (R181, R210). -/

theorem performTransaction_of_decode {t : Transaction} {i : Instr} (h : decodeTransaction t = .ok i) (who : Requester)
    (s : State) : performTransaction who t s = exec i (serveFor who s) := by
  simp only [performTransaction, h]

theorem serveBlock_of_port {s : State} {t : Transaction} (h : s.port = some t) :
    serveBlock s = performTransaction .block t s := by
  simp only [serveBlock, h]

theorem serveOrphan_of_listed {s : State} {n : Nat} {t : Transaction} (h : s.orphans[n]? = some t) :
    serveOrphan n s = performTransaction .nobody t (dropOrphan n s) := by
  simp only [serveOrphan, h]

/-! The block's turn (R118, R181). -/

/-- The header of a kind that names only a slot, in the literal fields of R118. -/
theorem header_of_slot (kind : BitVec 3) (slot : BitVec 2) : header kind slot 0 0 0 = kind ++ slot ++ (0 : BitVec 27) :=
  (by decide : ∀ (kind : BitVec 3) (slot : BitVec 2), header kind slot 0 0 0 = kind ++ slot ++ (0 : BitVec 27)) kind slot

/-- The header of a READ_REG, in the literal fields of R118. -/
theorem header_of_readReg (a : Byte) : header 3 0 a 0 0 = (0b01100000 : BitVec 8) ++ a ++ (0 : BitVec 16) :=
  (by decide : ∀ a : Byte, header 3 0 a 0 0 = (0b01100000 : BitVec 8) ++ a ++ (0 : BitVec 16)) a

section phases
variable {s : State} {slot : BitVec 2} (hslot : s.cmdSlot = some slot)
include hslot

theorem phaseTransaction_txLoad (hp : s.phase = Phase.txLoad) : phaseTransaction s = .ok (loadTxWord slot s.buf) := by
  simp [phaseTransaction, hslot, hp]

theorem phaseTransaction_txRts (hp : s.phase = Phase.txRts) : phaseTransaction s = .ok (reqSendWord slot) := by
  simp [phaseTransaction, hslot, hp, Phase.txRts, Phase.txLoad]

theorem phaseTransaction_rxBuf (hp : s.phase = Phase.rxBuf) : phaseTransaction s = .ok (readRxWord slot) := by
  simp [phaseTransaction, hslot, hp, Phase.rxBuf, Phase.txRts, Phase.txLoad]

theorem phaseTransaction_rxCtrl (hp : s.phase = Phase.rxCtrl) (h : slot.toNat < 2) :
    phaseTransaction s = .ok (readRegWord s.cfg.rxctrlAddr[slot.toNat]) := by
  have ha : rxctrlAddrOf s.cfg slot = some s.cfg.rxctrlAddr[slot.toNat] := Vector.getElem?_eq_getElem h
  simp [phaseTransaction, hslot, hp, ha, Phase.rxCtrl, Phase.rxBuf, Phase.txRts, Phase.txLoad]
end phases

/-- In a transaction phase the block's turn issues the phase's transaction, and the schedule has moved on. -/
theorem step_issues {s : State} {t : Transaction} (hf : s.faultReg.toNat ≤ 5) (hblock : (nextTurn s).1 = .block)
    (ha : s.await = false) (hp : inProgress s) (ht : phaseTransaction s = .ok t) :
    step s = .next { (nextTurn s).2 with port := some t, await := true, trace := s.trace ++ [.issue t] } := by
  obtain ⟨rest, hrest⟩ := nextTurn_rest s
  rw [step_eq, hblock, hrest]
  exact blockStep_issues (s := keepTurns rest s) hp hf ha ht

/-- A response that fits neither the failure arm nor the phase's success arm is BAD_RESPONSE (R181). -/
theorem consumeStep_of_wrongShape {r : Response} {s : State} (hfail : ∀ f, r ≠ .fail f)
    (hshape : s.phase = 1 ∧ r ≠ .ok ∨ s.phase = 2 ∧ r ≠ .ok ∨ s.phase = 3 ∧ (∀ b, r ≠ .okBytes b) ∨
      s.phase = 4 ∧ (∀ v, r ≠ .okByte v)) :
    consumeStep r s = .next (raiseFault FaultCode.badResponse (takeResponse r s)) := by
  rcases consumeStep_cases r s with
    ⟨f, hr, -⟩ | ⟨hp, hr, -⟩ | ⟨hp, hr, -⟩ | ⟨b, hp, hr, -⟩ | ⟨v, hp, hr, -⟩ | ⟨hbad, -⟩
  · exact absurd hr (hfail f)
  · simp [hp, hr, Phase.txLoad] at hshape
  · simp [hp, hr, Phase.txRts] at hshape
  · simp [hp, hr, Phase.rxBuf] at hshape
  · simp [hp, hr, Phase.rxCtrl] at hshape
  · exact hbad

/-! The assembler (R122 to R124). -/

/-- A number that fits in a field is read back from it. -/
theorem toNat_ofNat_of_lt {w n : Nat} (h : n < 2 ^ w) : (BitVec.ofNat w n).toNat = n :=
  (BitVec.toNat_ofNat n w).trans (Nat.mod_eq_of_lt h)

/-- Numbers that fit in a byte are read back from their bytes (R123). -/
theorem toNat_ofNat_bytes {bytes : List Nat} (h : bytes.all (· < 256) = true) :
    (bytes.map (BitVec.ofNat 8)).map (·.toNat) = bytes := by
  rw [List.map_map]
  refine (List.map_congr_left fun n hn => ?_).trans (List.map_id bytes)
  exact toNat_ofNat_of_lt (of_decide_eq_true (List.all_eq_true.1 h n hn))

theorem disassemble_transmitWord {slot : BitVec 2} (h : slot.toNat < 3) (len : Byte) (id : LogicalId)
    (din : List Byte) : disassemble ⟨commandWord 0 slot len, id, din⟩ =
      some (.transmit slot.toNat (.number id.toNat) (din.map (·.toNat)) len.toNat) := by
  simp only [disassemble, decode_transmitWord, isTxSlot, decide_eq_true h, if_true]

theorem disassemble_receiveWord {slot : BitVec 2} (h : slot.toNat < 2) (id : LogicalId) (din : List Byte) :
    disassemble ⟨commandWord 1 slot 0, id, din⟩ = some (.receive slot.toNat) := by
  simp only [disassemble, decode_receiveWord, isRxSlot, decide_eq_true h, if_true]

end Sys2Proof.Machine

open Sys2Proof Sys2Proof.Machine

/-- Settles O4: each instruction's word is read back, its fields being those it was laid out from. -/
theorem decodeEncodeRoundTrip : Obligations.DecodeEncodeRoundTrip := by
  intro i hi
  cases i with
  | transmit slot len id => exact decode_transmitWord slot len id
  | receive slot => exact decode_receiveWord slot 0
  | loadTx slot b => exact decode_loadTxWord slot b
  | reqSend slot => exact decode_reqSendWord slot
  | readRx slot => exact decode_readRxWord (of_decide_eq_true hi)
  | readReg a => exact decode_readRegWord a
  | writeReg a v => exact decode_writeRegWord a v
  | modifyReg a m v => exact decode_modifyRegWord a m v

/-- Settles O5: a word that decodes has its reserved bits zero, and so is laid out from its fields. -/
theorem encodeDecodeOneWord : Obligations.EncodeDecodeOneWord := by
  refine ⟨fun t i h => encode_of_decodeTransaction h, fun cmdw id i h => ?_⟩
  rcases encode_of_decodeCommand h with ⟨-, hw⟩ | ⟨hop, hw⟩
  · exact ⟨id, hw, fun _ => rfl⟩
  · exact ⟨0, hw, fun h0 => absurd (hop.symm.trans h0) (by decide)⟩

/-- Settles O6: the gate answers for every word, and behind it the checks come in their order. -/
theorem acceptanceChecksInOrder : Obligations.AcceptanceChecksInOrder := by
  intro s rest cmdw id din hcodes hagenda
  dsimp only
  rw [step_of_cons hagenda]
  change presentCommand cmdw id din (keepTurns rest s) = _
  rcases acceptGate_cases (provideDin din (keepTurns rest s)) with
    ⟨f, hf, -⟩ | ⟨-, hp, hgate⟩ | ⟨-, hp, hgate⟩ | ⟨-, hfaulted, hidle, hgate⟩
  · have hnone : corruptRegister (provideDin din (keepTurns rest s)) = none := (corruptRegister_none_iff _).2 hcodes
    rw [hnone] at hf; cases hf
  · have hp : s.phase = 7 := hp
    rw [if_pos hp]
    exact presentCommand_of_gate hgate cmdw id
  · have hp : s.phase = 0 := hp
    rw [if_neg (hp ▸ by decide), if_neg (not_not.2 hp)]
    exact presentCommand_of_open hgate cmdw id
  · have hfaulted : s.phase ≠ 7 := hfaulted
    have hidle : s.phase ≠ 0 := hidle
    rw [if_neg hfaulted, if_pos hidle]
    exact presentCommand_of_gate hgate cmdw id

/-- Settles O24: the phase's transaction is issued, and its header has the literal fields of R118. -/
theorem issueStepOfEachPhase : Obligations.IssueStepOfEachPhase := by
  rintro s slot ⟨-, -, hf⟩ hblock ha hslot
  refine ⟨fun hp => ?_, fun hp => ?_, fun hp => ?_, fun hp h => ?_⟩
  · rw [← header_of_slot]
    exact step_issues hf hblock ha (.inl (.inl hp)) (phaseTransaction_txLoad hslot hp)
  · rw [← header_of_slot]
    exact step_issues hf hblock ha (.inl (.inr hp)) (phaseTransaction_txRts hslot hp)
  · rw [← header_of_slot]
    exact step_issues hf hblock ha (.inr (.inl hp)) (phaseTransaction_rxBuf hslot hp)
  · rw [← header_of_readReg]
    exact step_issues hf hblock ha (.inr (.inr hp)) (phaseTransaction_rxCtrl hslot hp h)

/-- Settles O26: of the arms of the consume step only BAD_RESPONSE fits. -/
theorem wrongShapeRaisesBadResponse : Obligations.WrongShapeRaisesBadResponse := by
  rintro s r ⟨-, -, hf⟩ hblock ha hr hfail hshape
  have hp : inProgress s := by
    rcases hshape with ⟨hp, -⟩ | ⟨hp, -⟩ | ⟨hp, -⟩ | ⟨hp, -⟩
    · exact .inl (.inl hp)
    · exact .inl (.inr hp)
    · exact .inr (.inl hp)
    · exact .inr (.inr hp)
  obtain ⟨rest, hrest⟩ := nextTurn_rest s
  rw [step_eq, hblock, hrest]
  exact (blockStep_consumes (s := keepTurns rest s) hp hf ha hr).trans
    (consumeStep_of_wrongShape (s := keepTurns rest s) hfail hshape)

/-- Settles O60: an assembled call fits its fields, so the word is read back with the same numbers. -/
theorem disassemblyInvertsAssembly : Obligations.DisassemblyInvertsAssembly := by
  intro call cmd h
  cases call with
  | transmit slot id bytes length =>
    rw [assemble, Option.ite_none_right_eq_some] at h
    obtain ⟨⟨hslot, hid, hbytes, hlength, -⟩, h⟩ := h
    obtain rfl := Option.some.inj h
    have hnat : (BitVec.ofNat 2 slot).toNat = slot := toNat_ofNat_of_lt (by omega)
    rw [disassemble_transmitWord (hnat.symm ▸ hslot), hnat, toNat_ofNat_of_lt hid,
      toNat_ofNat_of_lt hlength, toNat_ofNat_bytes hbytes]
  | receive slot =>
    rw [assemble, Option.ite_none_right_eq_some] at h
    obtain ⟨hslot, h⟩ := h
    obtain rfl := Option.some.inj h
    have hnat : (BitVec.ofNat 2 slot).toNat = slot := toNat_ofNat_of_lt (by omega)
    rw [disassemble_receiveWord (hnat.symm ▸ hslot), hnat]

/-- Settles O2: whoever issued it, the environment runs what the transaction decodes to. -/
theorem stepRunsDecodedTransaction : Obligations.StepRunsDecodedTransaction := by
  intro s rest t i hdecode
  refine ⟨fun hagenda hport => ?_, fun hagenda => ?_, fun n hagenda horphan => ?_⟩
  all_goals rw [step_of_cons hagenda]
  · exact (serveBlock_of_port (s := keepTurns rest s) hport).trans (performTransaction_of_decode hdecode _ _)
  · exact performTransaction_of_decode hdecode .software (keepTurns rest s)
  · exact (serveOrphan_of_listed (s := keepTurns rest s) horphan).trans (performTransaction_of_decode hdecode _ _)

/-- Settles O3, by running the decoder on the fifteen words. -/
theorem workedEncodingsDecode : Obligations.WorkedEncodingsDecode := by
  unfold Obligations.WorkedEncodingsDecode
  decide

/-- Settles O10: the state is that of `acceptTransmit`. -/
theorem transmitIsAccepted : Obligations.TransmitIsAccepted := by
  intro s slot len id hready hslot hdin
  exact acceptTransmit_of_ready hready (decide_eq_true (Nat.lt_succ_of_le hslot)) hdin id
end

section
/-! PROOFS. The marshaller (40_marshaller.md): the received frame and the transmit image bit by bit and byte by byte, and
a frame that is sent and received again. -/

namespace Sys2Proof.Machine

/-! The tested bits of a byte and of an id (R140, R151). -/

theorem twoPow_ne_zero {w k : Nat} (hk : k < w) : BitVec.twoPow w k ≠ 0#w := fun h => by
  simpa [hk] using congrArg (·.getLsbD k) h

/-- A word under a mask of one bit is the whole mask where it holds that bit. -/
theorem and_twoPow_beq {w k : Nat} (hk : k < w) (x : BitVec w) :
    (x &&& BitVec.twoPow w k == BitVec.twoPow w k) = x.getLsbD k := by
  rw [BitVec.and_twoPow]
  cases x.getLsbD k with
  | true => exact beq_self_eq_true _
  | false => exact beq_false_of_ne (twoPow_ne_zero hk).symm

/-- A word under a mask of one bit is not zero where it holds that bit. -/
theorem and_twoPow_bne_zero {w k : Nat} (hk : k < w) (x : BitVec w) :
    (x &&& BitVec.twoPow w k != 0#w) = x.getLsbD k := by
  rw [BitVec.and_twoPow]
  cases x.getLsbD k with
  | true => exact bne_iff_ne.2 (twoPow_ne_zero hk)
  | false => exact bne_self_eq_false _

theorem isExtended_eq_bit (id : LogicalId) : isExtended id = id.getLsbD 29 :=
  and_twoPow_bne_zero (k := 29) (by decide) id

theorem isRtr_eq_bit (id : LogicalId) : isRtr id = id.getLsbD 30 :=
  and_twoPow_bne_zero (k := 30) (by decide) id

/-- The bit that FLAG_TEST reads for the mask of bit `k` (R151). -/
def testedBit (c : Config) (k : Nat) : Nat := if c.rxFlagTest = .correct then k else 0

/-- FLAG_TEST in both its modes is one bit of the byte (R151). -/
theorem flagTest_oneBit (c : Config) (x : Byte) {k : Nat} (hk : k < 8) :
    flagTest c x ((1 : Byte) <<< k) = x.getLsbD (testedBit c k) := by
  unfold flagTest testedBit
  cases c.rxFlagTest with
  | correct =>
    rw [if_pos rfl]
    exact and_twoPow_beq hk x
  | precedenceDefect =>
    exact and_twoPow_bne_zero (k := 0) (by decide) x

theorem exideIndex_range (c : Config) : 2 ≤ exideIndex c ∧ exideIndex c ≤ 4 := by
  unfold exideIndex
  cases c.exideBit <;> decide

theorem dlcRtrIndex_range (c : Config) : 4 ≤ dlcRtrIndex c ∧ dlcRtrIndex c ≤ 7 := by
  unfold dlcRtrIndex
  cases c.dlcRtrBit <;> decide

theorem getLsbD_one_shiftLeft {w : Nat} (i k : Nat) (hk : k < w) : (1#w <<< i).getLsbD k = decide (k = i) := by
  rw [← BitVec.twoPow_eq, BitVec.getLsbD_twoPow]
  by_cases h : k = i
  · simp [h ▸ hk, h]
  · simp [h, Ne.symm h]

/-- The bits of a mask of `m` low bits. -/
theorem getLsbD_lowMask {w m : Nat} (hm : m ≤ w) (k : Nat) :
    (BitVec.ofNat w (2 ^ m - 1)).getLsbD k = decide (k < m) := by
  rw [BitVec.getLsbD_ofNat, Nat.testBit_two_pow_sub_one, ← Bool.decide_and, decide_eq_decide]
  omega

/-- The bits of a word with a field of `m` bits shifted in below it. -/
theorem getLsbD_shiftIn {w v : Nat} (x : BitVec w) (y : BitVec v) {m k : Nat} (hk : k < w)
    (hy : ∀ i, m ≤ i → y.getLsbD i = false) :
    ((x <<< m) ||| y.zeroExtend w).getLsbD k = if k < m then y.getLsbD k else x.getLsbD (k - m) := by
  rw [BitVec.getLsbD_or, BitVec.getLsbD_shiftLeft, BitVec.getLsbD_setWidth]
  split
  · next h => simp [hk, h]
  · next h => simp [hk, h, hy k (Nat.le_of_not_lt h)]

/-! The received id (R150 to R157). -/

theorem getLsbD_decodeBase (b : Image) {k : Nat} (hk : k < 32) : (decodeBase b).getLsbD k =
    if 11 ≤ k then false else if 3 ≤ k then b[0].getLsbD (k - 3) else b[1].getLsbD (k + 5) := by
  have hlow (i : Nat) : (sidl b >>> 5).getLsbD i = b[1].getLsbD (i + 5) := by
    rw [BitVec.getLsbD_ushiftRight, Nat.add_comm, sidl]
  rw [decodeBase, getLsbD_shiftIn _ _ hk fun i hi => by rw [hlow, BitVec.getLsbD_of_ge _ _ (by omega)], hlow, sidh]
  rcases (by omega : k < 3 ∨ 3 ≤ k ∧ k < 11 ∨ 11 ≤ k) with h | h | h
  · simp (disch := omega) only [if_pos, if_neg]
  · simp (disch := omega) only [if_pos, if_neg, BitVec.getLsbD_setWidth, decide_eq_true, Bool.true_and]
  · simp (disch := omega) only [if_pos, if_neg, BitVec.getLsbD_setWidth, BitVec.getLsbD_of_ge, Bool.and_false]

theorem getLsbD_decodeExt (b : Image) (id : LogicalId) {k : Nat} (hk : k < 32) : (decodeExt b id).getLsbD k =
    if k = 29 then true else if 18 ≤ k then id.getLsbD (k - 18) else if 16 ≤ k then b[1].getLsbD (k - 16)
    else if 8 ≤ k then b[2].getLsbD (k - 8) else b[3].getLsbD k := by
  have hlow (i : Nat) : (sidl b &&& 0x03).getLsbD i = (b[1].getLsbD i && decide (i < 2)) := by
    rw [BitVec.getLsbD_and, sidl]
    exact congrArg _ (getLsbD_lowMask (w := 8) (m := 2) (by decide) i)
  have hflag : effFlag.getLsbD k = decide (k = 29) := getLsbD_one_shiftLeft 29 k hk
  have hbyte (x : Byte) (i : Nat) (hi : 8 ≤ i) : x.getLsbD i = false := BitVec.getLsbD_of_ge x i hi
  simp only [decodeExt]
  rw [BitVec.getLsbD_or, hflag, getLsbD_shiftIn _ _ hk (hbyte _), getLsbD_shiftIn _ _ (by omega) (hbyte _),
    getLsbD_shiftIn _ _ (by omega) fun i hi => by rw [hlow, decide_eq_false (by omega), Bool.and_false], eid8, eid0]
  simp only [Nat.sub_sub, Nat.reduceAdd]
  rcases (by omega : k < 8 ∨ 8 ≤ k ∧ k < 16 ∨ 16 ≤ k ∧ k < 18 ∨ 18 ≤ k) with h | h | h | h
  · simp (disch := omega) only [if_pos, if_neg, decide_eq_false, Bool.or_false]
  · simp (disch := omega) only [if_pos, if_neg, decide_eq_false, Bool.or_false]
  · simp (disch := omega) only [if_pos, if_neg, decide_eq_false, Bool.or_false, hlow, decide_eq_true, Bool.and_true]
  · by_cases h29 : k = 29
    · simp [h29]
    · simp (disch := omega) only [if_pos, if_neg, decide_eq_false, Bool.or_false]

theorem rxExtended_eq_bit (c : Config) (b : Image) : rxExtended c b = b[1].getLsbD (testedBit c (exideIndex c)) :=
  flagTest_oneBit c (sidl b) ((exideIndex_range c).2.trans_lt (by decide))

theorem rxRtr_eq_bit (c : Config) (stat : Byte) : rxRtr c stat = stat.getLsbD (testedBit c c.rxrtrBit.val) :=
  flagTest_oneBit c stat c.rxrtrBit.isLt

/-- The received id, bit by bit (R150 to R157), with the two tests read as the bits they test. -/
theorem getLsbD_decodeId (c : Config) (b : Image) (stat : Byte) {k : Nat} (hk : k < 32) :
    (decodeId c b stat).getLsbD k =
      if k = 31 then false else if k = 30 then rxRtr c stat else if k = 29 then rxExtended c b
      else if rxExtended c b then
        if 21 ≤ k then b[0].getLsbD (k - 21) else if 18 ≤ k then b[1].getLsbD (k - 13)
        else if 16 ≤ k then b[1].getLsbD (k - 16) else if 8 ≤ k then b[2].getLsbD (k - 8) else b[3].getLsbD k
      else if 11 ≤ k then false else if 3 ≤ k then b[0].getLsbD (k - 3) else b[1].getLsbD (k + 5) := by
  have hrtr : rtrFlag.getLsbD k = decide (k = 30) := getLsbD_one_shiftLeft 30 k hk
  have hid (id : LogicalId) : (if rxRtr c stat then id ||| rtrFlag else id).getLsbD k =
      (id.getLsbD k || (rxRtr c stat && decide (k = 30))) := by
    cases rxRtr c stat with
    | true => rw [if_pos rfl, BitVec.getLsbD_or, hrtr, Bool.true_and]
    | false => rw [if_neg Bool.false_ne_true, Bool.false_and, Bool.or_false]
  rw [decodeId, hid]
  cases rxExtended c b with
  | true =>
    rw [if_pos rfl, getLsbD_decodeExt _ _ hk, getLsbD_decodeBase _ (by omega)]
    rcases (by omega : k = 31 ∨ k = 30 ∨ k = 29 ∨ 21 ≤ k ∧ k < 29 ∨ 18 ≤ k ∧ k < 21 ∨ k < 18)
      with rfl | rfl | rfl | h | h | h
    · simp
    · simp
    · simp
    · simp (disch := omega) only [if_pos, if_neg, decide_eq_false, Bool.and_false, Bool.or_false, Nat.sub_sub,
        if_true]
    · simp (disch := omega) only [if_pos, if_neg, decide_eq_false, Bool.and_false, Bool.or_false]
      congr 1
      omega
    · simp (disch := omega) only [if_pos, if_neg, decide_eq_false, Bool.and_false, Bool.or_false, if_true]
  | false =>
    rw [if_neg Bool.false_ne_true, getLsbD_decodeBase _ hk]
    rcases (by omega : k = 31 ∨ k = 30 ∨ k = 29 ∨ k < 29) with rfl | rfl | rfl | h
    · simp
    · simp
    · simp
    · simp (disch := omega) only [if_neg, decide_eq_false, Bool.and_false, Bool.or_false, Bool.false_eq_true,
        if_false]

/-- The received id is given by the bits that R150, R153 and R154 name (R158). -/
theorem decodeId_congr {c : Config} {b b' : Image} {stat stat' : Byte} (hsidh : b[0] = b'[0])
    (hbase : ∀ k, 5 ≤ k → b[1].getLsbD k = b'[1].getLsbD k) (hext : rxExtended c b = rxExtended c b')
    (hextended : rxExtended c b = true →
      (∀ k, k < 2 → b[1].getLsbD k = b'[1].getLsbD k) ∧ b[2] = b'[2] ∧ b[3] = b'[3])
    (hrtr : rxRtr c stat = rxRtr c stat') : decodeId c b stat = decodeId c b' stat' := by
  refine BitVec.eq_of_getLsbD_eq fun k hk => ?_
  rw [getLsbD_decodeId _ _ _ hk, getLsbD_decodeId _ _ _ hk, ← hext, hrtr, hsidh]
  cases hx : rxExtended c b with
  | true =>
    obtain ⟨hlow, heid8, heid0⟩ := hextended hx
    rw [heid8, heid0]
    rcases (by omega : k < 16 ∨ 16 ≤ k ∧ k < 18 ∨ 18 ≤ k) with h | h | h
    · simp (disch := omega) only [if_neg, if_true]
    · simp (disch := omega) only [if_pos, if_neg, hlow]
    · simp (disch := omega) only [if_pos, hbase]
  | false => simp (disch := omega) only [hbase, Bool.false_eq_true, if_false]

/-! The received length and data (R155, R156). -/

theorem getLsbD_decodeLen (b : Image) (k : Nat) : (decodeLen b).getLsbD k = (b[4].getLsbD k && decide (k < 4)) := by
  rw [decodeLen, BitVec.getLsbD_and, dlc]
  exact congrArg _ (getLsbD_lowMask (w := 8) (m := 4) (by decide) k)

/-- The received length is given by the low four bits of `DLC` (R158). -/
theorem decodeLen_congr {b b' : Image} (h : ∀ k, k < 4 → b[4].getLsbD k = b'[4].getLsbD k) :
    decodeLen b = decodeLen b' := by
  refine BitVec.eq_of_getLsbD_eq fun k _ => ?_
  rw [getLsbD_decodeLen, getLsbD_decodeLen]
  by_cases hk : k < 4
  · rw [h k hk]
  · rw [decide_eq_false hk, Bool.and_false, Bool.and_false]

theorem toNat_decodeLen (b : Image) : (decodeLen b).toNat = b[4].toNat % 16 := by
  rw [decodeLen, BitVec.toNat_and]
  exact Nat.and_two_pow_sub_one_eq_mod _ 4

/-- Bytes written one after the other from index `i` on, as `copyOut` and `copyIn` do (`copyOut_eq_writeFrom`,
`copyIn_eq_writeFrom`). -/
def writeFrom {n : Nat} : List Byte → Nat → Vector Byte n → Vector Byte n
  | [], _, v => v
  | x :: xs, i, v => writeFrom xs (i + 1) (v.setIfInBounds i x)

theorem getElem_writeFrom {n : Nat} (bytes : List Byte) (i : Nat) (v : Vector Byte n) {k : Nat} (hk : k < n) :
    (writeFrom bytes i v)[k] = if k < i then v[k] else bytes[k - i]?.getD v[k] := by
  induction bytes generalizing i v with
  | nil => simp [writeFrom]
  | cons x xs ih =>
    rw [writeFrom, ih, Vector.getElem_setIfInBounds]
    rcases Nat.lt_trichotomy k i with h | rfl | h
    · rw [if_pos (by omega), if_neg (by omega), if_pos h]
    · simp
    · have hsub : k - i = k - (i + 1) + 1 := by omega
      rw [if_neg (by omega), if_neg (by omega), if_neg (by omega), hsub, List.getElem?_cons_succ]

theorem copyOut_eq_writeFrom (bytes : List Byte) (i : Nat) (d : Payload) : copyOut bytes i d = writeFrom bytes i d := by
  induction bytes generalizing i d with
  | nil => rfl
  | cons x xs ih => exact ih (i + 1) _

theorem copyIn_eq_writeFrom (bytes : List Byte) (i : Nat) (b : Image) :
    copyIn bytes i b = writeFrom bytes (5 + i) b := by
  induction bytes generalizing i b with
  | nil => rfl
  | cons x xs ih => exact ih (i + 1) _

theorem getElem?_doutWrites (bytes : List Byte) (i k : Nat) :
    (doutWrites bytes i)[k]? = bytes[k]?.map (TraceEvent.doutWrite (i + k)) := by
  induction bytes generalizing i k with
  | nil => simp [doutWrites]
  | cons x xs ih =>
    cases k with
    | zero => rfl
    | succ k =>
      rw [doutWrites, List.getElem?_cons_succ, ih, List.getElem?_cons_succ, Nat.add_right_comm, Nat.add_assoc]

theorem getElem?_dataBytes (b : Image) (n : Nat) {k : Nat} (hk : k < 8) :
    (dataBytes b n)[k]? = if k < n then some b[5 + k] else none := by
  simp [dataBytes, List.getElem?_take, hk]

theorem getElem?_receivedBytes (b : Image) {k : Nat} (hk : k < 8) :
    (receivedBytes b)[k]? = if k < min (b[4].toNat % 16) 8 then some b[5 + k] else none := by
  rw [receivedBytes, getElem?_dataBytes b _ hk, payloadCount, toNat_decodeLen]

theorem receivedBytes_length_eq (b : Image) : (receivedBytes b).length = min (b[4].toNat % 16) 8 := by
  simp [receivedBytes, dataBytes, payloadCount, toNat_decodeLen]

theorem doutWrites_length (bytes : List Byte) (i : Nat) : (doutWrites bytes i).length = bytes.length := by
  induction bytes generalizing i with
  | nil => rfl
  | cons x xs ih => rw [doutWrites, List.length_cons, ih, List.length_cons]

/-- What `DOUT` holds after a successful RECEIVE (R156, R72). -/
theorem getElem_copyOut_receivedBytes (b : Image) (d : Payload) {k : Nat} (hk : k < 8) :
    (copyOut (receivedBytes b) 0 d)[k] = if k < min (b[4].toNat % 16) 8 then b[5 + k] else d[k] := by
  rw [copyOut_eq_writeFrom, getElem_writeFrom _ _ _ hk, if_neg k.not_lt_zero, Nat.sub_zero, getElem?_receivedBytes b hk]
  split <;> rfl

/-! The transmit image (R142 to R149). -/

/-- An image with the four id bytes written: the only ones that R142, R143 and R144 write. -/
def withIdBytes (w x y z : Byte) (b : Image) : Image := setEid0 z (setEid8 y (setSidl x (setSidh w b)))

section withIdBytes
variable (w x y z : Byte) (b : Image)
@[simp] theorem withIdBytes_sidh : (withIdBytes w x y z b)[0] = w := by
  simp [withIdBytes, setEid0, setEid8, setSidl, setSidh]
@[simp] theorem withIdBytes_sidl : (withIdBytes w x y z b)[1] = x := by
  simp [withIdBytes, setEid0, setEid8, setSidl, setSidh]
@[simp] theorem withIdBytes_eid8 : (withIdBytes w x y z b)[2] = y := by
  simp [withIdBytes, setEid0, setEid8, setSidl, setSidh]
@[simp] theorem withIdBytes_eid0 : (withIdBytes w x y z b)[3] = z := by
  simp [withIdBytes, setEid0, setEid8, setSidl, setSidh]
theorem getElem_withIdBytes {k : Nat} (hk : k < 13) (h : 4 ≤ k) : (withIdBytes w x y z b)[k] = b[k] := by
  simp (disch := omega) only [withIdBytes, setEid0, setEid8, setSidl, setSidh, Vector.getElem_set_ne]
end withIdBytes

/-- The `SIDL` byte of an extended id: three id bits, the extended-ID-enable bit, two id bits (R143, R144). -/
def extSidl (c : Config) (hi : BitVec 3) (lo : BitVec 2) : Byte :=
  (hi.zeroExtend 8 <<< 5) ||| exideMask c ||| lo.zeroExtend 8

theorem getLsbD_extSidl (c : Config) (hi : BitVec 3) (lo : BitVec 2) {k : Nat} (hk : k < 8) :
    (extSidl c hi lo).getLsbD k =
      if 5 ≤ k then hi.getLsbD (k - 5) else if k < 2 then lo.getLsbD k else decide (k = exideIndex c) := by
  obtain ⟨h2, h4⟩ := exideIndex_range c
  have hmask : (exideMask c).getLsbD k = decide (k = exideIndex c) := getLsbD_one_shiftLeft _ k hk
  rw [extSidl, BitVec.getLsbD_or, BitVec.getLsbD_or, hmask, BitVec.getLsbD_shiftLeft, BitVec.getLsbD_setWidth,
    BitVec.getLsbD_setWidth]
  rcases (by omega : k < 2 ∨ 2 ≤ k ∧ k < 5 ∨ 5 ≤ k) with h | h | h
  · simp (disch := omega) only [if_pos, if_neg, decide_eq_true, decide_eq_false, Bool.true_and, Bool.not_true,
      Bool.and_false, Bool.false_and, Bool.false_or]
  · simp (disch := omega) only [if_neg, decide_eq_true, Bool.true_and, Bool.not_true,
      Bool.and_false, Bool.false_and, Bool.false_or, BitVec.getLsbD_of_ge, Bool.or_false]
  · simp (disch := omega) only [if_pos, decide_eq_true, decide_eq_false, Bool.true_and, Bool.not_false,
      Bool.or_false, BitVec.getLsbD_of_ge]

theorem encodeId_standard (c : Config) {id : LogicalId} (h : id.getLsbD 29 = false) (b : Image) :
    encodeId c id b = withIdBytes (field 3 8 id) ((field 0 3 id).zeroExtend 8 <<< 5) 0 0 b := by
  rw [encodeId, isExtended_eq_bit, h]
  rfl

/-- An extended id packed by a layout that takes its fields at `p`, `q`, `r`, `s`, `t` of the id (R143, R144). -/
def packExt (c : Config) (p q r s t : Nat) (id : LogicalId) (b : Image) : Image :=
  withIdBytes (field p 8 id) (extSidl c (field q 3 id) (field r 2 id)) (field s 8 id) (field t 8 id) b

theorem encodeId_inverse {c : Config} (hc : c.txExtLayout = .inverse) {id : LogicalId} (h : id.getLsbD 29 = true)
    (b : Image) : encodeId c id b = packExt c 21 18 16 8 0 id b := by
  rw [encodeId, isExtended_eq_bit, h, hc]
  rfl

theorem encodeId_literal {c : Config} (hc : c.txExtLayout = .literal) {id : LogicalId} (h : id.getLsbD 29 = true)
    (b : Image) : encodeId c id b = packExt c 3 0 27 19 11 id b := by
  rw [encodeId, isExtended_eq_bit, h, hc]
  rfl

/-- Packing the id leaves the bytes after the id (R142 to R144). -/
theorem getElem_encodeId (c : Config) (id : LogicalId) (b : Image) {k : Nat} (hk : k < 13) (h : 4 ≤ k) :
    (encodeId c id b)[k] = b[k] := by
  cases hid : id.getLsbD 29 with
  | false => simp only [encodeId_standard c hid, getElem_withIdBytes _ _ _ _ _ hk h]
  | true =>
    cases hc : c.txExtLayout with
    | inverse => simp only [encodeId_inverse hc hid, packExt, getElem_withIdBytes _ _ _ _ _ hk h]
    | literal => simp only [encodeId_literal hc hid, packExt, getElem_withIdBytes _ _ _ _ _ hk h]

/-- The `SIDL` byte of a standard id (R142). -/
theorem getLsbD_stdSidl (id : LogicalId) {k : Nat} (hk : k < 8) :
    ((field 0 3 id).zeroExtend 8 <<< 5 : Byte).getLsbD k = (decide (5 ≤ k) && id.getLsbD (k - 5)) := by
  rw [BitVec.getLsbD_shiftLeft, BitVec.getLsbD_setWidth, getLsbD_field]
  by_cases h : 5 ≤ k
  · simp (disch := omega) only [decide_eq_true, decide_eq_false, Bool.not_false, Bool.true_and, Nat.zero_add]
  · simp (disch := omega) only [decide_eq_true, decide_eq_false, Bool.not_true, Bool.and_false, Bool.false_and]

section encodeFrame
variable (c : Config) (id : LogicalId) (len : Byte) (din : List Byte) (b : Image)

theorem encodeFrame_eq_writeFrom : encodeFrame c id len din b =
    writeFrom (din.take (payloadCount len)) 5 ((encodeId c id b).set 4 (dlcByte c id len)) :=
  copyIn_eq_writeFrom ..

/-- ENCODE_DLC and ENCODE_DATA leave the id bytes. -/
theorem encodeFrame_idByte {k : Nat} (hk : k < 4) :
    (encodeFrame c id len din b)[k] = (encodeId c id b)[k] := by
  rw [encodeFrame_eq_writeFrom, getElem_writeFrom _ _ _ (by omega), if_pos (by omega),
    Vector.getElem_set_ne _ _ (by omega)]

theorem encodeFrame_dlc : (encodeFrame c id len din b)[4] = dlcByte c id len := by
  rw [encodeFrame_eq_writeFrom, getElem_writeFrom _ _ _ (by omega), if_pos (by omega), Vector.getElem_set_self]

theorem encodeFrame_data {k : Nat} (hk : k < 8) :
    (encodeFrame c id len din b)[5 + k] = (din.take (payloadCount len))[k]?.getD b[5 + k] := by
  rw [encodeFrame_eq_writeFrom, getElem_writeFrom _ _ _ (by omega), if_neg (by omega),
    Vector.getElem_set_ne _ _ (by omega), getElem_encodeId _ _ _ _ (by omega), Nat.add_sub_cancel_left]

/-- The id bytes of an extended image, bit by bit (R143, R144). -/
theorem extendedIdBytes {p q r s t : Nat} (h : encodeId c id b = packExt c p q r s t id b) :
    let image := encodeFrame c id len din b
    (∀ k, k < 8 → image[0].getLsbD k = id.getLsbD (k + p)) ∧
    (∀ k, k < 8 → image[1].getLsbD k =
      if 5 ≤ k then id.getLsbD (k - 5 + q) else if k < 2 then id.getLsbD (k + r) else decide (k = exideIndex c)) ∧
    (∀ k, k < 8 → image[2].getLsbD k = id.getLsbD (k + s)) ∧
    (∀ k, k < 8 → image[3].getLsbD k = id.getLsbD (k + t)) := by
  have hbyte {lo width k : Nat} (hk : k < width) : (field lo width id).getLsbD k = id.getLsbD (k + lo) := by
    rw [getLsbD_field, decide_eq_true hk, Bool.true_and, Nat.add_comm]
  simp only [encodeFrame_idByte, h, packExt, Nat.reduceLT, withIdBytes_sidh, withIdBytes_sidl, withIdBytes_eid8,
    withIdBytes_eid0]
  refine ⟨fun k hk => hbyte hk, fun k hk => ?_, fun k hk => hbyte hk, fun k hk => hbyte hk⟩
  rw [getLsbD_extSidl c _ _ hk]
  split_ifs with h5 h2
  · exact hbyte (by omega)
  · exact hbyte h2
  · rfl

end encodeFrame

theorem getLsbD_txDlcMaskByte (c : Config) {k : Nat} (hk : k < 8) :
    (txDlcMaskByte c).getLsbD k = (decide (k < 4) || decide (c.txDlcMask = .wholeByte)) := by
  unfold txDlcMaskByte
  cases c.txDlcMask with
  | lowNibble => exact (getLsbD_lowMask (w := 8) (m := 4) (by decide) k).trans (by simp)
  | wholeByte => exact (getLsbD_lowMask (w := 8) (m := 8) (by decide) k).trans (by simp [hk])

theorem getLsbD_dlcByte (c : Config) (id : LogicalId) (len : Byte) {k : Nat} (hk : k < 8) :
    (dlcByte c id len).getLsbD k = ((len.getLsbD k && (decide (k < 4) || decide (c.txDlcMask = .wholeByte))) ||
      (decide (k = dlcRtrIndex c) && id.getLsbD 30)) := by
  have hmask : (dlcRtrMask c).getLsbD k = decide (k = dlcRtrIndex c) := getLsbD_one_shiftLeft _ k hk
  rw [dlcByte, BitVec.getLsbD_or, BitVec.getLsbD_and, getLsbD_txDlcMaskByte c hk, isRtr_eq_bit]
  cases id.getLsbD 30 with
  | true => rw [if_pos rfl, hmask, Bool.and_true]
  | false => rw [if_neg Bool.false_ne_true, BitVec.ofNat_eq_ofNat, BitVec.getLsbD_zero, Bool.and_false]

/-! A sent frame received again (R159 to R161). -/

/-- Every bit from `m` on is clear in a word below `2 ^ m`. -/
theorem getLsbD_of_toNat_lt {w m i : Nat} {x : BitVec w} (h : x.toNat < 2 ^ m) (hi : m ≤ i) : x.getLsbD i = false :=
  Nat.testBit_lt_two_pow (h.trans_le (Nat.pow_le_pow_right Nat.two_pos hi))

/-- The received length is the low nibble of the length sent, whatever the mask and the RTR bit (R146, R155). -/
theorem decodeLen_encodeFrame (c : Config) (id : LogicalId) (len : Byte) (din : List Byte) (b : Image) :
    decodeLen (encodeFrame c id len din b) = len &&& 0x0F := by
  refine BitVec.eq_of_getLsbD_eq fun k hk => ?_
  obtain ⟨hrtr, -⟩ := dlcRtrIndex_range c
  have hlow : (0x0F : Byte).getLsbD k = decide (k < 4) := getLsbD_lowMask (w := 8) (m := 4) (by decide) k
  rw [getLsbD_decodeLen, encodeFrame_dlc, getLsbD_dlcByte c id len hk, BitVec.getLsbD_and, hlow]
  by_cases h : k < 4
  · simp [h, show k ≠ dlcRtrIndex c by omega]
  · simp [h]

/-- Under CORRECT the decoder sees an extended frame where the encoder was given an extended id (R149, R152). -/
theorem rxExtended_encodeFrame {c : Config} (hc : c.rxFlagTest = .correct) (id : LogicalId) (len : Byte)
    (din : List Byte) (b : Image) : rxExtended c (encodeFrame c id len din b) = id.getLsbD 29 := by
  obtain ⟨h2, h4⟩ := exideIndex_range c
  have hext (hi : BitVec 3) (lo : BitVec 2) : (extSidl c hi lo).getLsbD (exideIndex c) = true := by
    rw [getLsbD_extSidl c hi lo (by omega), if_neg (by omega), if_neg (by omega), decide_eq_true rfl]
  rw [rxExtended_eq_bit, testedBit, if_pos hc, encodeFrame_idByte c id len din b (by decide)]
  cases hid : id.getLsbD 29 with
  | false =>
    rw [encodeId_standard c hid, withIdBytes_sidl, getLsbD_stdSidl id (by omega), decide_eq_false (by omega),
      Bool.false_and]
  | true =>
    cases hl : c.txExtLayout with
    | inverse => rw [encodeId_inverse hl hid, packExt, withIdBytes_sidl, hext]
    | literal => rw [encodeId_literal hl hid, packExt, withIdBytes_sidl, hext]

/-- Under CORRECT the received RTR flag is the bit `RXRTR_BIT` of the status byte (R154). -/
theorem rxRtr_of_correct {c : Config} (hc : c.rxFlagTest = .correct) (stat : Byte) :
    rxRtr c stat = stat.getLsbD c.rxrtrBit.val := by
  rw [rxRtr_eq_bit, testedBit, if_pos hc]

/-- The received id of an extended image, bit by bit (R153, R157). -/
theorem getLsbD_decodeId_encodeFrame {c : Config} (hc : c.rxFlagTest = .correct) {id : LogicalId}
    (hid : id.getLsbD 29 = true) {b : Image} {p q r s t : Nat} (h : encodeId c id b = packExt c p q r s t id b)
    {stat : Byte} (hstat : stat.getLsbD c.rxrtrBit.val = false) (len : Byte) (din : List Byte) {k : Nat} (hk : k < 32) :
    (decodeId c (encodeFrame c id len din b) stat).getLsbD k =
      if 30 ≤ k then false else if k = 29 then true else if 21 ≤ k then id.getLsbD (k - 21 + p)
      else if 18 ≤ k then id.getLsbD (k - 18 + q) else if 16 ≤ k then id.getLsbD (k - 16 + r)
      else if 8 ≤ k then id.getLsbD (k - 8 + s) else id.getLsbD (k + t) := by
  obtain ⟨hsidh, hsidl, heid8, heid0⟩ := extendedIdBytes c id len din b h
  rw [getLsbD_decodeId _ _ _ hk, rxRtr_of_correct hc, hstat, rxExtended_encodeFrame hc, hid, if_pos rfl]
  rcases (by omega : k = 31 ∨ k = 30 ∨ k = 29 ∨ 21 ≤ k ∧ k < 29 ∨ 18 ≤ k ∧ k < 21 ∨ 16 ≤ k ∧ k < 18 ∨
    8 ≤ k ∧ k < 16 ∨ k < 8) with rfl | rfl | rfl | h | h | h | h | h
  · rfl
  · rfl
  · rfl
  · simp (disch := omega) only [if_pos, if_neg, hsidh]
  · simp (disch := omega) only [if_pos, if_neg, hsidl, Nat.sub_sub]
  · simp (disch := omega) only [if_pos, if_neg, hsidl]
  · simp (disch := omega) only [if_pos, if_neg, heid8]
  · simp (disch := omega) only [if_neg, heid0]

section roundTrip
variable (c : Config) (id : LogicalId) {len : Byte} {din : List Byte} (b : Image) (hlen : len.toNat ≤ 8)
include hlen

theorem decodeLen_encodeFrame_of_le : decodeLen (encodeFrame c id len din b) = len := by
  rw [decodeLen_encodeFrame]
  refine BitVec.eq_of_toNat_eq ((BitVec.toNat_and ..).trans ?_)
  exact (Nat.and_two_pow_sub_one_eq_mod _ 4).trans (Nat.mod_eq_of_lt (by omega))

/-- The data that are sent are the data received. -/
theorem copyOut_encodeFrame (d : Payload) (hdin : len.toNat ≤ din.length) {k : Nat} (hk : k < 8) (h : k < len.toNat) :
    some (copyOut (receivedBytes (encodeFrame c id len din b)) 0 d)[k] = din[k]? := by
  rw [getElem_copyOut_receivedBytes _ _ hk, ← toNat_decodeLen, decodeLen_encodeFrame_of_le c id b hlen,
    if_pos (by omega), encodeFrame_data _ _ _ _ _ hk, List.getElem?_take_of_lt (by rw [payloadCount]; omega),
    List.getElem?_eq_getElem (by omega), Option.getD_some]
end roundTrip

/-- The bits of an id sent as an extended one (R140). -/
theorem getLsbD_or_effFlag (x : LogicalId) {k : Nat} (hk : k < 32) :
    (x ||| 0x20000000).getLsbD k = (x.getLsbD k || decide (k = 29)) := by
  rw [BitVec.getLsbD_or]
  exact congrArg _ (getLsbD_one_shiftLeft 29 k hk)

/-- The bits of an id whose 29 bits are rotated by 18 places (R161). -/
theorem getLsbD_rotated {x : LogicalId} (hx : x.toNat < 2 ^ 29) {k : Nat} (hk : k < 32) :
    (((x &&& 0x7FF) <<< 18 ||| x >>> 11) ||| 0x20000000).getLsbD k =
      if 30 ≤ k then false else if k = 29 then true
      else if 18 ≤ k then x.getLsbD (k - 18) else x.getLsbD (k + 11) := by
  have hlow (i : Nat) : (x &&& 0x7FF).getLsbD i = (x.getLsbD i && decide (i < 11)) := by
    rw [BitVec.getLsbD_and]
    exact congrArg _ (getLsbD_lowMask (w := 32) (m := 11) (by decide) i)
  have hhigh (h : 18 ≤ k) : x.getLsbD (11 + k) = false := getLsbD_of_toNat_lt hx (by omega)
  rw [getLsbD_or_effFlag _ hk, BitVec.getLsbD_or, BitVec.getLsbD_shiftLeft, BitVec.getLsbD_ushiftRight, hlow]
  rcases (by omega : 30 ≤ k ∨ k = 29 ∨ 18 ≤ k ∧ k < 29 ∨ k < 18) with h | rfl | h | h
  · simp (disch := omega) only [if_pos, hhigh, decide_eq_false, Bool.and_false, Bool.or_false]
  · simp
  · simp (disch := omega) only [if_pos, if_neg, hhigh, decide_eq_true, decide_eq_false, Bool.not_false, Bool.true_and,
      Bool.and_true, Bool.or_false]
  · simp (disch := omega) only [if_neg, decide_eq_true, decide_eq_false, Bool.not_true, Bool.and_false, Bool.false_and,
      Bool.false_or, Bool.or_false, Nat.add_comm]

end Sys2Proof.Machine

open Sys2Proof Sys2Proof.Machine

/-- Settles O29: the image is that of ENCODE_ID_STD, and the later bytes are not the id's. -/
theorem standardIdImage : Obligations.StandardIdImage := by
  intro c id len din b hid
  obtain ⟨h2, h4⟩ := exideIndex_range c
  have hsidl {k : Nat} (hk : k < 8) :
      (encodeFrame c id len din b)[1].getLsbD k = (decide (5 ≤ k) && id.getLsbD (k - 5)) := by
    rw [encodeFrame_idByte _ _ _ _ _ (by decide), encodeId_standard c hid, withIdBytes_sidl, getLsbD_stdSidl id hk]
  refine ⟨fun k hk => ?_, fun k hk => hsidl hk, ?_, ?_, ?_, fun k hk => getElem_encodeId c id b k.isLt hk⟩
  · rw [encodeFrame_idByte _ _ _ _ _ (by decide), encodeId_standard c hid, withIdBytes_sidh, getLsbD_field,
      decide_eq_true hk, Bool.true_and, Nat.add_comm]
  · rw [encodeFrame_idByte _ _ _ _ _ (by decide), encodeId_standard c hid, withIdBytes_eid8]
  · rw [encodeFrame_idByte _ _ _ _ _ (by decide), encodeId_standard c hid, withIdBytes_eid0]
  · rw [hsidl (by omega), decide_eq_false (by omega), Bool.false_and]

/-- Settles O30: the image is that of ENCODE_ID_EXT_INVERSE, and the later bytes are not the id's. -/
theorem extendedIdImageInverse : Obligations.ExtendedIdImageInverse := by
  intro c id len din b hid hc
  obtain ⟨hsidh, hsidl, heid8, heid0⟩ := extendedIdBytes c id len din b (encodeId_inverse hc hid b)
  refine ⟨hsidh, fun k hk => ?_, heid8, heid0, fun k h => getElem_encodeId c id b k.isLt h⟩
  rw [hsidl k hk]
  split
  · next h5 => rw [show k - 5 + 18 = k + 13 by omega]
  · rfl

/-- Settles O31: the image is that of ENCODE_ID_EXT_LITERAL, and the later bytes are not the id's. -/
theorem extendedIdImageLiteral : Obligations.ExtendedIdImageLiteral := by
  intro c id len din b hid hc
  obtain ⟨hsidh, hsidl, heid8, heid0⟩ := extendedIdBytes c id len din b (encodeId_literal hc hid b)
  exact ⟨hsidh, hsidl, heid8, heid0, fun k h => getElem_encodeId c id b k.isLt h⟩

/-- Settles O32: the byte is that of ENCODE_DLC, and the low nibble holds no RTR bit. -/
theorem transmitDlcByte : Obligations.TransmitDlcByte := by
  intro c id len din b k hk
  obtain ⟨h4, h7⟩ := dlcRtrIndex_range c
  rw [encodeFrame_dlc]
  refine ⟨getLsbD_dlcByte c id len hk, fun hc => ?_⟩
  rw [getLsbD_dlcByte c id len (by omega), hc]
  simp [Nat.not_lt.2 h4]

/-- Settles O33: `DATA` takes the list `DIN[0..min(LEN, 8) - 1]` and keeps the rest. -/
theorem transmitDataBytes : Obligations.TransmitDataBytes := by
  intro c id len din b k hk hdin
  rw [encodeFrame_data _ _ _ _ _ hk, List.getElem?_take, payloadCount]
  split
  · rw [List.getElem?_eq_getElem (by omega), Option.getD_some]
  · rfl

/-- Settles O34: TX_COUNT is 8, so the reads are eight and every data byte comes from `DIN`. -/
theorem oversizedLengthReadsEight : Obligations.OversizedLengthReadsEight := by
  intro s slot len id hready hslot hlen hdin
  have hcount : payloadCount len = 8 := Nat.min_eq_right (by omega)
  refine ⟨_, acceptTransmit_of_ready hready (decide_eq_true (Nat.lt_succ_of_le hslot)) (hcount ▸ hdin) id, ?_, ?_⟩
  · rw [acceptTransmit_trace, dinReads, hcount]
    rfl
  · rw [acceptTransmit_buf]
    refine List.ext_getElem (by simpa using hdin) fun k hk hk' => ?_
    have hk8 : k < 8 := by simpa using hk
    rw [List.getElem_drop, Vector.getElem_toList, encodeFrame_data _ _ _ _ _ hk8, hcount, List.getElem?_eq_getElem hk',
      Option.getD_some]

/-- Settles O35: in either mode FLAG_TEST is one bit of the byte. -/
theorem flagTestModes : Obligations.FlagTestModes := by
  refine fun c x k hk => ⟨fun hc => ?_, fun hc => ?_⟩
  · rw [flagTest_oneBit c x hk, testedBit, if_pos hc]
  · rw [flagTest_oneBit c x hk, testedBit, hc, if_neg (by decide)]

/-- Settles O36: the id is shifted together from the bytes, and each flag is one test. -/
theorem receivedIdBits : Obligations.ReceivedIdBits := fun c b stat _ hk => getLsbD_decodeId c b stat hk

/-- Settles O37: the bits of the received id, where bit 29 says which of the two layouts was read. -/
theorem decoderRange : Obligations.DecoderRange := by
  intro c b stat
  refine ⟨getLsbD_decodeId c b stat (by decide), ?_, fun h29 k h11 h28 => ?_⟩
  · rw [toNat_decodeLen]
    exact Nat.mod_lt _ (by decide)
  · have hext : rxExtended c b = false := (getLsbD_decodeId c b stat (k := 29) (by decide)).symm.trans h29
    rw [getLsbD_decodeId c b stat (by omega), hext]
    simp (disch := omega) only [if_neg, if_pos, Bool.false_eq_true, if_false]

/-- Settles O38: the mask of DECODE_LEN is the low nibble. -/
theorem receivedLengthIsLowNibble : Obligations.ReceivedLengthIsLowNibble := toNat_decodeLen

/-- Settles O39: the bytes received are `min(LEN_OUT, 8)`, and each is written once with its event. -/
theorem receivedDataBytes : Obligations.ReceivedDataBytes := by
  intro b d k hk
  refine ⟨getElem_copyOut_receivedBytes b d hk, ?_, ?_⟩
  · rw [getElem?_doutWrites, getElem?_receivedBytes b hk, Nat.zero_add]
    split <;> rfl
  · rw [doutWrites_length, receivedBytes_length_eq]

/-- Settles O40: the id, the length and the data are given by the named bits alone. -/
theorem decoderReadsOnlyNamedBits : Obligations.DecoderReadsOnlyNamedBits := by
  intro c b b' stat stat' d tested hsidh hbase hexide hextended hdlc hdata hrxrtr
  have hext : rxExtended c b = rxExtended c b' :=
    (rxExtended_eq_bit c b).trans (hexide.trans (rxExtended_eq_bit c b').symm)
  have hrtr : rxRtr c stat = rxRtr c stat' := (rxRtr_eq_bit c stat).trans (hrxrtr.trans (rxRtr_eq_bit c stat').symm)
  have hid : decodeId c b stat = decodeId c b' stat' :=
    decodeId_congr hsidh hbase hext (fun h => hextended ((rxExtended_eq_bit c b).symm.trans h)) hrtr
  have hlen : decodeLen b = decodeLen b' := decodeLen_congr hdlc
  refine ⟨hid, hlen, Vector.ext fun k hk => ?_⟩
  rw [getElem_copyOut_receivedBytes _ _ hk, getElem_copyOut_receivedBytes _ _ hk, ← toNat_decodeLen b', ← hlen,
    toNat_decodeLen b]
  split
  · next h => exact hdata k hk h
  · rfl

/-- Settles O41: the two id bytes are read back as a base id, and no flag is set. -/
theorem standardRoundTrip : Obligations.StandardRoundTrip := by
  intro c x len din b stat d hc hx hlen hdin hstat
  have hhigh {k : Nat} (hk : 11 ≤ k) : x.getLsbD k = false := getLsbD_of_toNat_lt (by omega) hk
  obtain ⟨hsidh, hsidl, -⟩ := standardIdImage c x len din b (hhigh (by decide))
  refine ⟨BitVec.eq_of_getLsbD_eq fun k hk => ?_, decodeLen_encodeFrame_of_le c x b hlen,
    fun k hk h => copyOut_encodeFrame c x b hlen d hdin hk h⟩
  rw [getLsbD_decodeId _ _ _ hk, rxRtr_of_correct hc, hstat, rxExtended_encodeFrame hc, hhigh (by decide),
    if_neg Bool.false_ne_true]
  rcases (by omega : k < 3 ∨ 3 ≤ k ∧ k < 11 ∨ 11 ≤ k) with h | h | h
  · simp (disch := omega) only [if_neg, hsidl, decide_eq_true, Bool.true_and, Nat.add_sub_cancel]
  · simp (disch := omega) only [if_pos, if_neg, hsidh, Nat.sub_add_cancel]
  · simp only [if_pos h, hhigh h, ite_self]

/-- Settles O42: under INVERSE every field of the id is read back at the place it was taken from. -/
theorem extendedRoundTrip : Obligations.ExtendedRoundTrip := by
  intro c x len din b stat d hc hl hx hlen hdin hstat
  have hflag : (x ||| 0x20000000).getLsbD 29 = true := by simp
  refine ⟨BitVec.eq_of_getLsbD_eq fun k hk => ?_, decodeLen_encodeFrame_of_le c _ b hlen,
    fun k hk h => copyOut_encodeFrame c _ b hlen d hdin hk h⟩
  rw [getLsbD_decodeId_encodeFrame hc hflag (encodeId_inverse hl hflag b) hstat len din hk]
  split_ifs with h30 h29
  · rw [getLsbD_or_effFlag x hk, getLsbD_of_toNat_lt (m := 29) (by omega) (by omega), decide_eq_false (by omega)]
    rfl
  · rw [h29, hflag]
  all_goals simp (disch := omega) only [Nat.sub_add_cancel, Nat.add_zero]

/-- Settles O43: under LITERAL the decoder reads the fields in another order than they lie in the id. -/
theorem literalLayoutRotates : Obligations.LiteralLayoutRotates := by
  intro c x len din b stat hc hl hx hstat
  have hflag : (x ||| 0x20000000).getLsbD 29 = true := by simp
  refine BitVec.eq_of_getLsbD_eq fun k hk => ?_
  rw [getLsbD_decodeId_encodeFrame hc hflag (encodeId_literal hl hflag b) hstat len din hk,
    getLsbD_rotated (by omega) hk]
  have hread {i : Nat} (hi : i < 29) : (x ||| 0x20000000).getLsbD i = x.getLsbD i := by
    rw [getLsbD_or_effFlag x (by omega), decide_eq_false (by omega), Bool.or_false]
  rcases (by omega : 30 ≤ k ∨ k = 29 ∨ 21 ≤ k ∧ k < 29 ∨ 18 ≤ k ∧ k < 21 ∨ 16 ≤ k ∧ k < 18 ∨
    8 ≤ k ∧ k < 16 ∨ k < 8) with h | rfl | h | h | h | h | h
  · rw [if_pos h, if_pos h]
  · rfl
  · simp (disch := omega) only [if_pos, if_neg, hread, show k - 21 + 3 = k - 18 by omega]
  · simp (disch := omega) only [if_pos, if_neg, hread, Nat.add_zero]
  · simp (disch := omega) only [if_pos, if_neg, hread, show k - 16 + 27 = k + 11 by omega]
  · simp (disch := omega) only [if_pos, if_neg, hread, show k - 8 + 19 = k + 11 by omega]
  · simp (disch := omega) only [if_neg, hread]
end

section
/-! PROOFS. The sequencer (41_sequencer.md): the success arms, a transaction answered at once, the two commands seen
whole (R190), and that a command whose transactions are answered ends (R275). -/

namespace Sys2Proof.Machine

/-! The consume step on the schedule (R181). -/

/-- In a transaction phase with its response there the block's turn consumes it, and the schedule has moved on. -/
theorem step_consumes {s t : State} {r : Response} {rest : List Turn} (hf : s.faultReg.toNat ≤ 5)
    (hblock : (nextTurn s).1 = .block) (hrest : (nextTurn s).2 = keepTurns rest s) (hp : inProgress s)
    (ha : s.await = true) (hr : s.rspIn = some r) (ht : consumeArm r (takeResponse r (keepTurns rest s)) = .next t) :
    step s = .next t := by
  rw [step_eq, hblock, hrest]
  exact (blockStep_consumes (s := keepTurns rest s) hp hf ha hr).trans ht

/-! An accepted command on the schedule (R180). -/

theorem step_acceptsTransmit {s : State} (h : ready s) {slot : BitVec 2} (hslot : slot.toNat ≤ 2) {len : Byte}
    {id : LogicalId} {din : List Byte} {turns : List Turn} (hdin : payloadCount len ≤ din.length)
    (hagenda : s.agenda = .command (commandWord 0 slot len) id din :: turns) :
    step s = .next (acceptTransmit slot len id (provideDin din (keepTurns turns s))) := by
  rw [stepRunsDecodedCommand s _ _ id din _ hagenda (decode_transmitWord slot len id)]
  exact acceptTransmit_of_ready (s := provideDin din (keepTurns turns s)) h
    (decide_eq_true (Nat.lt_succ_of_le hslot)) hdin id

theorem step_acceptsReceive {s : State} (h : ready s) {slot : BitVec 2} (hslot : slot.toNat < 2) {id : LogicalId}
    {din : List Byte} {turns : List Turn} (hagenda : s.agenda = .command (commandWord 1 slot 0) id din :: turns) :
    step s = .next (acceptReceive slot (provideDin din (keepTurns turns s))) := by
  rw [stepRunsDecodedCommand s _ _ id din _ hagenda (decode_receiveWord slot id)]
  exact acceptReceive_of_ready (s := provideDin din (keepTurns turns s)) h (decide_eq_true hslot)

/-- The state after acceptance, register by register (R180, R182). -/
theorem acceptTransmit_eq (slot : BitVec 2) (len : Byte) (id : LogicalId) (din : List Byte) (turns : List Turn)
    (s : State) : acceptTransmit slot len id (provideDin din (keepTurns turns s)) =
    { s with
      agenda := turns, din := din, phase := Phase.txLoad, await := false, rspIn := none
      cmdOp := some CmdOp.transmit, cmdSlot := some slot, idIn := some id, lenIn := some len
      buf := transmitImage s.cfg id len din s.draws, draws := s.draws + 13
      stat := none, result := none, failval := none, idOut := none, lenOut := none
      trace := s.trace ++ dinReads len } := rfl

/-- A run with no step left ends where it is. -/
theorem run_zero_of_eq {s t : State} (h : s = t) : core.run 0 s = .next t := congrArg _ h

/-! A transaction answered at once: issue, response, consume (R181). -/

/-- The turns of a transaction that is answered at once. -/
def exchangeTurns (r : Response) (rest : List Turn) : List Turn := .block :: .answer r :: .block :: rest

theorem answeredSchedule_append (cmdw : BitVec 16) (id : LogicalId) (din : List Byte) (r1 r2 : Response)
    (rest : List Turn) : answeredSchedule cmdw id din r1 r2 ++ rest =
      .command cmdw id din :: exchangeTurns r1 (exchangeTurns r2 rest) := rfl

/-- The state in which `T` has been issued and answered with `r`, and the response taken, before it is looked at. -/
def exchanged (T : Transaction) (r : Response) (rest : List Turn) (s : State) : State :=
  { s with
    agenda := rest, port := none, await := false, rspIn := none
    trace := s.trace ++ [.issue T, .resp r] }

theorem takeResponse_storeResponse_issue (T : Transaction) (r : Response) (rest : List Turn) (s : State) :
    takeResponse r (storeResponse r (issue T (keepTurns rest s))) = exchanged T r rest s := by
  simp [takeResponse, storeResponse, issue, keepTurns, exchanged]

/-- A command is in progress and its phase's transaction is still to be issued. -/
structure Underway (s : State) : Prop where
  latched       : CommandLatched s
  fault_written : s.faultReg.toNat ≤ 5
  not_awaiting  : s.await = false
  no_response   : s.rspIn = none

theorem underway_acceptTransmit {s : State} (hf : s.faultReg.toNat ≤ 5) {slot : BitVec 2} (hslot : slot.toNat ≤ 2)
    (len : Byte) (id : LogicalId) : Underway (acceptTransmit slot len id s) :=
  ⟨.inl ⟨.inl rfl, rfl, ⟨slot, rfl, decide_eq_true (Nat.lt_succ_of_le hslot)⟩, rfl, rfl⟩, hf, rfl, rfl⟩

theorem underway_acceptReceive {s : State} (hf : s.faultReg.toNat ≤ 5) {slot : BitVec 2} (hslot : slot.toNat < 2) :
    Underway (acceptReceive slot s) :=
  ⟨.inr ⟨.inl rfl, rfl, ⟨slot, rfl, decide_eq_true hslot⟩, rfl, rfl⟩, hf, rfl, rfl⟩

section exchanging
variable {s : State} {T : Transaction} {r : Response} {rest : List Turn}

/-- A load that is acknowledged leaves the send request to be issued (R183). -/
theorem Underway.loadAcknowledged (h : Underway s) (hp : s.phase = Phase.txLoad) :
    Underway (loadAcknowledged (exchanged T r rest s)) where
  latched := h.latched.imp (fun ht => ⟨.inr rfl, ht.2⟩) fun hr => absurd hr.1 (inTransmit.not_inReceive (.inl hp))
  fault_written := h.fault_written
  not_awaiting := rfl
  no_response := rfl

/-- An image that is stored leaves the control-status register to be read (R186). -/
theorem Underway.storeImage (h : Underway s) (hp : s.phase = Phase.rxBuf) (b : Image) :
    Underway (storeImage b (exchanged T r rest s)) where
  latched := h.latched.imp (fun ht => absurd (.inl hp) (inTransmit.not_inReceive ht.1)) fun hr => ⟨.inr rfl, hr.2⟩
  fault_written := h.fault_written
  not_awaiting := rfl
  no_response := rfl

/-- A command underway has its latches, so its phase has a transaction. -/
theorem Underway.phaseTransaction_ok (h : Underway s) : ∃ T, phaseTransaction s = .ok T := by
  rcases h.latched with ⟨hp | hp, -, ⟨slot, hslot, -⟩, -⟩ | ⟨hp | hp, -, ⟨slot, hslot, hrx⟩, -⟩
  · exact ⟨_, phaseTransaction_txLoad hslot hp⟩
  · exact ⟨_, phaseTransaction_txRts hslot hp⟩
  · exact ⟨_, phaseTransaction_rxBuf hslot hp⟩
  · exact ⟨_, phaseTransaction_rxCtrl hslot hp (of_decide_eq_true hrx)⟩

/-- Three turns carry a transaction from its issue to the arm of the consume step that its response selects. -/
theorem Underway.run_exchange {t : State} (h : Underway s) (hagenda : s.agenda = exchangeTurns r rest)
    (hT : phaseTransaction s = .ok T) (ht : consumeArm r (exchanged T r rest s) = .next t) (k : Nat) :
    core.run (k + 3) s = core.run k t := by
  have hp : inProgress s := h.latched.inProgress
  have hissue : step s = .next (issue T (keepTurns (.answer r :: .block :: rest) s)) := by
    rw [step_of_cons hagenda]
    exact blockStep_issues (s := keepTurns _ s) hp h.fault_written h.not_awaiting hT
  have hanswer : step (issue T (keepTurns (.answer r :: .block :: rest) s)) =
      .next (storeResponse r (issue T (keepTurns (.block :: rest) s))) := by
    rw [step_of_cons rfl]
    exact congrArg _ (if_pos ⟨rfl, h.no_response⟩)
  have hconsume : step (storeResponse r (issue T (keepTurns (.block :: rest) s))) = .next t := by
    rw [step_of_cons rfl, ← ht, ← takeResponse_storeResponse_issue]
    exact blockStep_consumes (s := storeResponse r (issue T (keepTurns rest s))) hp h.fault_written rfl rfl
  rw [run_succ_next _ hissue, run_succ_next _ hanswer, run_succ_next _ hconsume]

/-- In IDLE and in FAULTED the turns of an exchange pass without a step (log 7). -/
theorem run_withoutExchange (hcodes : codesWritten s) (hp : s.phase = Phase.idle ∨ s.phase = Phase.faulted)
    (ha : s.await = false) (hagenda : s.agenda = exchangeTurns r rest) (k : Nat) :
    core.run (k + 3) s = core.run k (keepTurns rest s) := by
  have hwait : ∀ turns, blockStep (keepTurns turns s) = .next (keepTurns turns s) := fun turns =>
    blockStep_waits (s := keepTurns turns s) hcodes (hp.imp_right .inl)
  have hfirst : step s = .next (keepTurns (.answer r :: .block :: rest) s) := by
    rw [step_of_cons hagenda]
    exact hwait _
  have hanswer : step (keepTurns (.answer r :: .block :: rest) s) = .next (keepTurns (.block :: rest) s) := by
    rw [step_of_cons rfl]
    exact congrArg _ (if_neg fun hawait => by simp [ha] at hawait)
  have hlast : step (keepTurns (.block :: rest) s) = .next (keepTurns rest s) := by
    rw [step_of_cons rfl]
    exact hwait _
  rw [run_succ_next _ hfirst, run_succ_next _ hanswer, run_succ_next _ hlast]

theorem run_withoutExchange_idle (hp : s.phase = Phase.idle) (hf : s.faultReg.toNat ≤ 5) (ha : s.await = false)
    (hagenda : s.agenda = exchangeTurns r rest) (k : Nat) : core.run (k + 3) s = core.run k (keepTurns rest s) :=
  run_withoutExchange ⟨hp ▸ by decide, hp ▸ by decide, hf⟩ (.inl hp) ha hagenda k

end exchanging

/-! The state after an exchange, response by response of a right shape (R183 to R188, R231). -/

/-- `T` has failed, and with it a TRANSMIT (R231). -/
def transmitFailed (T : Transaction) (f : FailureValue) (rest : List Turn) (s : State) : State :=
  finish Result.busFail (storeFailval f (exchanged T (.fail f) rest s))

/-- `T` has failed, and with it a RECEIVE (R189, R231). -/
def receiveFailed (T : Transaction) (f : FailureValue) (rest : List Turn) (s : State) : State :=
  finish Result.busFail (failReceiveOutputs (storeFailval f (exchanged T (.fail f) rest s)))

/-- The image is loaded (R183). -/
def imageLoaded (slot : BitVec 2) (rest : List Turn) (s : State) : State :=
  loadAcknowledged (exchanged (loadTxWord slot s.buf) .ok rest s)

/-- The sending is requested, and the TRANSMIT completed (R184). -/
def sendRequested (slot : BitVec 2) (rest : List Turn) (s : State) : State :=
  completeOk (exchanged (reqSendWord slot) .ok rest s)

/-- The receive buffer is read (R186). -/
def bufferTaken (slot : BitVec 2) (b : Image) (rest : List Turn) (s : State) : State :=
  storeImage b (exchanged (readRxWord slot) (.okBytes b) rest s)

/-- The control-status register is read, and the RECEIVE completed (R187). -/
def frameReceived (addr v : Byte) (rest : List Turn) (s : State) : State :=
  receiveDone v (exchanged (readRegWord addr) (.okByte v) rest s)

/-! The same states register by register. -/

section closedForms
variable (T : Transaction) (f : FailureValue) (slot : BitVec 2) (b : Image) (addr v : Byte)
  (rest : List Turn) (s : State)

theorem transmitFailed_eq : transmitFailed T f rest s =
    { s with
      agenda := rest, phase := Phase.idle, await := false, rspIn := none, port := none
      idIn := none, lenIn := none, stat := none, result := some Result.busFail, failval := some f
      trace := s.trace ++ [TraceEvent.issue T, .resp (.fail f), .done Result.busFail] } := by
  simp [transmitFailed, finish, storeFailval, exchanged]

theorem receiveFailed_eq : receiveFailed T f rest s =
    { s with
      agenda := rest, phase := Phase.idle, await := false, rspIn := none, port := none
      idIn := none, lenIn := none, stat := none, result := some Result.busFail, failval := some f
      idOut := none, lenOut := none, dout := nextDraws s 8, draws := s.draws + 8
      trace := s.trace ++ [TraceEvent.issue T, .resp (.fail f), .done Result.busFail] } := by
  simp [receiveFailed, finish, failReceiveOutputs, storeFailval, exchanged, nextDraws]

theorem imageLoaded_eq : imageLoaded slot rest s =
    { s with
      agenda := rest, phase := Phase.txRts, await := false, rspIn := none, port := none
      trace := s.trace ++ [TraceEvent.issue (loadTxWord slot s.buf), .resp .ok] } := rfl

theorem sendRequested_eq : sendRequested slot rest s =
    { s with
      agenda := rest, phase := Phase.idle, await := false, rspIn := none, port := none
      idIn := none, lenIn := none, stat := none, result := some Result.ok
      trace := s.trace ++ [TraceEvent.issue (reqSendWord slot), .resp .ok, .done Result.ok] } := by
  simp [sendRequested, completeOk, finish, exchanged]

theorem bufferTaken_eq : bufferTaken slot b rest s =
    { s with
      agenda := rest, phase := Phase.rxCtrl, await := false, rspIn := none, port := none, buf := b
      trace := s.trace ++ [TraceEvent.issue (readRxWord slot), .resp (.okBytes b)] } := rfl

theorem frameReceived_eq : frameReceived addr v rest s =
    { s with
      agenda := rest, phase := Phase.idle, await := false, rspIn := none, port := none
      idIn := none, lenIn := none, stat := none, result := some Result.ok
      idOut := some (decodeId s.cfg s.buf v), lenOut := some (decodeLen s.buf)
      dout := copyOut (receivedBytes s.buf) 0 s.dout
      trace := s.trace ++ ([TraceEvent.issue (readRegWord addr), .resp (.okByte v)] ++
        doutWrites (receivedBytes s.buf) 0 ++ [.done Result.ok]) } := by
  simp [frameReceived, receiveDone, completeOk, finish, decodeFrame, storeStat, exchanged]

end closedForms

section exchangeRuns
variable {s : State} {T : Transaction} {rest : List Turn} {slot : BitVec 2} {f : FailureValue} {b : Image} {v : Byte}
  (h : Underway s)
include h

theorem Underway.run_transmitFailed (hop : s.cmdOp = some CmdOp.transmit) (hT : phaseTransaction s = .ok T)
    (hagenda : s.agenda = exchangeTurns (.fail f) rest) (k : Nat) :
    core.run (k + 3) s = core.run k (transmitFailed T f rest s) :=
  h.run_exchange hagenda hT (completeFail_transmit (s := exchanged T (.fail f) rest s) f hop) k

theorem Underway.run_receiveFailed (hop : s.cmdOp = some CmdOp.receive) (hT : phaseTransaction s = .ok T)
    (hagenda : s.agenda = exchangeTurns (.fail f) rest) (k : Nat) :
    core.run (k + 3) s = core.run k (receiveFailed T f rest s) :=
  h.run_exchange hagenda hT (completeFail_receive (s := exchanged T (.fail f) rest s) f hop) k

/-- After a failure of the first transaction the turns of the second pass without a step (log 7). -/
theorem Underway.run_transmitFailed_early {r : Response} (hop : s.cmdOp = some CmdOp.transmit)
    (hT : phaseTransaction s = .ok T) (hagenda : s.agenda = exchangeTurns (.fail f) (exchangeTurns r rest)) (k : Nat) :
    core.run (k + 6) s = core.run k (transmitFailed T f rest s) :=
  (h.run_transmitFailed hop hT hagenda (k + 3)).trans
    (run_withoutExchange_idle (s := transmitFailed T f (exchangeTurns r rest) s) rfl h.fault_written rfl rfl k)

/-- After a failure of the first transaction the turns of the second pass without a step (log 7). -/
theorem Underway.run_receiveFailed_early {r : Response} (hop : s.cmdOp = some CmdOp.receive)
    (hT : phaseTransaction s = .ok T) (hagenda : s.agenda = exchangeTurns (.fail f) (exchangeTurns r rest)) (k : Nat) :
    core.run (k + 6) s = core.run k (receiveFailed T f rest s) :=
  (h.run_receiveFailed hop hT hagenda (k + 3)).trans
    (run_withoutExchange_idle (s := receiveFailed T f (exchangeTurns r rest) s) rfl h.fault_written rfl rfl k)

variable (hslot : s.cmdSlot = some slot)
include hslot

theorem Underway.run_imageLoaded (hp : s.phase = Phase.txLoad) (hagenda : s.agenda = exchangeTurns .ok rest) (k : Nat) :
    core.run (k + 3) s = core.run k (imageLoaded slot rest s) :=
  h.run_exchange hagenda (phaseTransaction_txLoad hslot hp) (if_pos hp) k

theorem Underway.run_sendRequested (hp : s.phase = Phase.txRts) (hagenda : s.agenda = exchangeTurns .ok rest)
    (k : Nat) : core.run (k + 3) s = core.run k (sendRequested slot rest s) :=
  h.run_exchange hagenda (phaseTransaction_txRts hslot hp) ((if_neg (hp.trans_ne (by decide))).trans (if_pos hp)) k

theorem Underway.run_bufferTaken (hp : s.phase = Phase.rxBuf) (hagenda : s.agenda = exchangeTurns (.okBytes b) rest)
    (k : Nat) : core.run (k + 3) s = core.run k (bufferTaken slot b rest s) :=
  h.run_exchange hagenda (phaseTransaction_rxBuf hslot hp) (if_pos hp) k

theorem Underway.run_frameReceived (hp : s.phase = Phase.rxCtrl) (hlt : slot.toNat < 2)
    (hagenda : s.agenda = exchangeTurns (.okByte v) rest) (k : Nat) :
    core.run (k + 3) s = core.run k (frameReceived s.cfg.rxctrlAddr[slot.toNat] v rest s) :=
  h.run_exchange hagenda (phaseTransaction_rxCtrl hslot hp hlt) (if_pos hp) k

end exchangeRuns

/-! The end of a command whose transactions are answered (R275, R276). -/

/-- Nothing is outstanding, and the block is in IDLE without a fault or in FAULTED with a code that is written. -/
structure CommandEnded (s : State) : Prop where
  not_awaiting : s.await = false
  no_response  : s.rspIn = none
  stopped      : (s.phase = Phase.idle ∧ s.faultReg = FaultCode.none) ∨
    (s.phase = Phase.faulted ∧ 1 ≤ s.faultReg.toNat ∧ s.faultReg.toNat ≤ 5)

theorem commandEnded_raiseFault {code : BitVec 3} (hcode : 1 ≤ code.toNat ∧ code.toNat ≤ 5) (s : State) :
    CommandEnded (raiseFault code s) := ⟨rfl, rfl, .inr ⟨rfl, hcode⟩⟩

/-- The caller presents no further command exactly where no turn left is one. -/
theorem noFurtherCommand_iff {s : State} :
    noFurtherCommand s ↔ ∀ cmdw id din, .command cmdw id din ∉ s.agenda := by
  rw [noFurtherCommand, List.any_eq_false]
  refine ⟨fun h cmdw id din hmem => h _ hmem rfl, fun h e hmem => ?_⟩
  cases e with
  | command cmdw id din => exact absurd hmem (h cmdw id din)
  | block | serve | answer | serveOrphan | software | changeTxb | changeRxb | changeReg | changeTxreq | setDin | setDout
    | read | reset => exact Bool.false_ne_true

section ending
variable {s t : State} {r r1 r2 : Response} {rest : List Turn}

theorem CommandEnded.keepTurns (h : CommandEnded s) (rest : List Turn) : CommandEnded (keepTurns rest s) := { h with }

theorem CommandEnded.codesWritten (h : CommandEnded s) : codesWritten s := by
  rcases h.stopped with ⟨hp, hf⟩ | ⟨hp, hf⟩
  · exact ⟨hp ▸ by decide, hp ▸ by decide, hf ▸ by decide⟩
  · exact ⟨hp ▸ by decide, hp ▸ by decide, hf.2⟩

/-- The turns left over after the end change nothing but the schedule. -/
theorem CommandEnded.run_withoutExchange (h : CommandEnded s) (hagenda : s.agenda = exchangeTurns r rest) (k : Nat) :
    core.run (k + 3) s = core.run k (Machine.keepTurns rest s) :=
  Machine.run_withoutExchange h.codesWritten (h.stopped.imp And.left And.left) h.not_awaiting hagenda k

theorem CommandEnded.atRest_or_faulted (h : CommandEnded s) :
    atRest s ∨ (isFaulted s ∧ s.faultReg ≠ 0 ∧ s.await = false ∧ s.rspIn = none) := by
  rcases h.stopped with ⟨hp, hf⟩ | ⟨hp, hf, -⟩
  · exact .inl ⟨hp, h.not_awaiting, h.no_response, hf⟩
  · exact .inr ⟨hp, fun h0 => by simp [h0] at hf, h.not_awaiting, h.no_response⟩

theorem CommandEnded.atRest_iff (h : CommandEnded s) : atRest s ↔ ¬ isFaulted s := by
  refine ⟨fun hrest hfaulted => absurd (hrest.1.symm.trans hfaulted) (by decide), fun hnot => ?_⟩
  exact h.atRest_or_faulted.resolve_right fun hfaulted => hnot hfaulted.1

theorem ConsumeEffect.agenda (h : ConsumeEffect r s t) : t.agenda = s.agenda := by
  cases h <;> rfl

/-- A consumed response ends the command, but for the success of its first transaction. -/
theorem ConsumeEffect.ends_or_advances (h : ConsumeEffect r s t) (ha : s.await = false) (hr : s.rspIn = none)
    (hf : s.faultReg = FaultCode.none) :
    CommandEnded t ∨ (s.phase = Phase.txLoad ∧ t = loadAcknowledged s) ∨
      (s.phase = Phase.rxBuf ∧ ∃ b, t = storeImage b s) := by
  cases h with
  | failed | receiveFailed | requested | received => exact .inl ⟨ha, hr, .inl ⟨rfl, hf⟩⟩
  | loaded hp => exact .inr (.inl ⟨hp, rfl⟩)
  | bufferRead b hp => exact .inr (.inr ⟨hp, b, rfl⟩)
  | wrongShape => exact .inl (commandEnded_raiseFault (by decide) s)

/-- A transaction answered at once, whatever the answer: the command has ended, or its second transaction is next. -/
theorem Underway.exchange_cases (h : Underway s) (hf : s.faultReg = FaultCode.none)
    (hagenda : s.agenda = exchangeTurns r rest) :
    ∃ t, (∀ k, core.run (k + 3) s = core.run k t) ∧ t.agenda = rest ∧
      (CommandEnded t ∨ ((s.phase = Phase.txLoad ∨ s.phase = Phase.rxBuf) ∧
        (t.phase = Phase.txRts ∨ t.phase = Phase.rxCtrl) ∧ Underway t ∧ t.faultReg = FaultCode.none)) := by
  obtain ⟨T, hT⟩ := h.phaseTransaction_ok
  have hop : s.cmdOp = some CmdOp.transmit ∨ s.cmdOp = some CmdOp.receive :=
    h.latched.imp (fun ht => ht.2.1) fun hr => hr.2.1
  obtain ⟨t, ht⟩ := consumeStep_runs r (s := storeResponse r (issue T (keepTurns rest s))) hop
  have heffect := consumeStep_effect ht
  rw [consumeStep, takeResponse_storeResponse_issue] at ht
  rw [takeResponse_storeResponse_issue] at heffect
  refine ⟨t, h.run_exchange hagenda hT ht, heffect.agenda, ?_⟩
  rcases heffect.ends_or_advances rfl rfl hf with hended | ⟨hp, rfl⟩ | ⟨hp, b, rfl⟩
  · exact .inl hended
  · exact .inr ⟨.inl hp, .inl rfl, h.loadAcknowledged hp, hf⟩
  · exact .inr ⟨.inr hp, .inr rfl, h.storeImage hp b, hf⟩

/-- Two exchanges are enough, whatever the answers: no command has a third transaction. -/
theorem run_twoExchanges (h : CommandEnded s ∨ (Underway s ∧ s.faultReg = FaultCode.none))
    (hagenda : s.agenda = exchangeTurns r1 (exchangeTurns r2 rest)) :
    ∃ t, core.run 6 s = .next t ∧ t.agenda = rest ∧ CommandEnded t := by
  rcases h with hended | ⟨hunderway, hf⟩
  · have hleft := hended.keepTurns (exchangeTurns r2 rest)
    exact ⟨_, (hended.run_withoutExchange hagenda 3).trans (hleft.run_withoutExchange rfl 0), rfl,
      hleft.keepTurns rest⟩
  · obtain ⟨t, hfirst, ht, hended | ⟨-, hp, hunderway, hf⟩⟩ := hunderway.exchange_cases hf hagenda
    · exact ⟨_, (hfirst 3).trans (hended.run_withoutExchange ht 0), rfl, hended.keepTurns rest⟩
    · obtain ⟨u, hsecond, hu, hended | ⟨hp', -⟩⟩ := hunderway.exchange_cases hf ht
      · exact ⟨u, (hfirst 3).trans (hsecond 0), hu, hended⟩
      · rcases hp with hp | hp <;> rw [hp] at hp' <;> exact absurd hp' (by decide)

/-- A block at rest accepts a command or rejects it with a fault (R180). -/
theorem presentCommand_atRest (h : atRest s) (cmdw : BitVec 16) (id : LogicalId) (din : List Byte) :
    ∃ t, presentCommand cmdw id din s = .next t ∧ t.agenda = s.agenda ∧
      (CommandEnded t ∨ (Underway t ∧ t.faultReg = FaultCode.none)) := by
  obtain ⟨hp, -, -, hf⟩ := h
  have hle : s.faultReg.toNat ≤ 5 := hf ▸ by decide
  rcases presentCommand_cases cmdw id din s with ⟨f, hc, -⟩ |
    ⟨-, ⟨hfaulted, -⟩ | ⟨-, hbusy, -⟩ | ⟨-, ⟨code, h1, h3, hn⟩ | ⟨slot, len, -, hs, -, hn⟩ | ⟨slot, -, hs, hn⟩⟩⟩
  · rw [corruptRegister_idle hp hle] at hc; cases hc
  · exact absurd (hp.symm.trans hfaulted) (by decide)
  · exact absurd hp hbusy
  · exact ⟨_, hn, rfl, .inl (commandEnded_raiseFault ⟨h1, by omega⟩ _)⟩
  · exact ⟨_, hn, rfl, .inr ⟨underway_acceptTransmit (s := provideDin din s) hle hs len id, hf⟩⟩
  · exact ⟨_, hn, rfl, .inr ⟨underway_acceptReceive (s := provideDin din s) hle (Nat.lt_succ_of_le hs), hf⟩⟩

end ending

end Sys2Proof.Machine

open Sys2Proof Sys2Proof.Machine

/-- Settles O11: the state is that of `acceptReceive`. -/
theorem receiveIsAccepted : Obligations.ReceiveIsAccepted := by
  intro s slot hready hslot
  exact acceptReceive_of_ready hready (decide_eq_true (Nat.lt_succ_of_le hslot))

/-- Settles O25: with the phase's response in place its success arm is the one taken. -/
theorem successArmOfEachPhase : Obligations.SuccessArmOfEachPhase := by
  rintro s ⟨-, -, hf⟩ hblock ha
  obtain ⟨rest, hrest⟩ := nextTurn_rest s
  dsimp only
  rw [hrest]
  refine ⟨fun hp hr => ?_, fun hp hr => ?_, fun b hp hr => ?_, fun v hp hr => ?_⟩
  · exact step_consumes hf hblock hrest (.inl (.inl hp)) ha hr (if_pos hp)
  · have htrace : s.trace ++ [.resp .ok, .done 0] = (completeOk (takeResponse .ok (keepTurns rest s))).trace := by
      simp [completeOk, Result.ok]
    rw [htrace]
    exact step_consumes hf hblock hrest (.inl (.inr hp)) ha hr ((if_neg (hp ▸ by decide)).trans (if_pos hp))
  · exact step_consumes hf hblock hrest (.inr (.inl hp)) ha hr (if_pos hp)
  · have htrace : s.trace ++ ([.resp (.okByte v)] ++ doutWrites (receivedBytes s.buf) 0 ++ [.done 0]) =
        (receiveDone v (takeResponse (.okByte v) (keepTurns rest s))).trace := by
      simp [receiveDone, completeOk, Result.ok]
    rw [htrace]
    exact step_consumes hf hblock hrest (.inr (.inr hp)) ha hr (if_pos hp)

/-- Settles O44: TX_LOAD fails and the rest passes without a step, or TX_RTS fails, or both are acknowledged. -/
theorem transmitRunIsMacroStep : Obligations.TransmitRunIsMacroStep := by
  intro s slot len id din r1 r2 rest hready hslot hdin hagenda
  rw [answeredSchedule_append] at hagenda
  let presented := provideDin din (keepTurns (exchangeTurns r1.toOk (exchangeTurns r2.toOk rest)) s)
  let accepted := acceptTransmit slot len id presented
  have hunderway : Underway accepted := underway_acceptTransmit (s := presented) hready.2 hslot len id
  have hfirst : phaseTransaction accepted = .ok (loadTxWord slot accepted.buf) := phaseTransaction_txLoad rfl rfl
  refine (run_succ_next 6 (step_acceptsTransmit hready hslot hdin hagenda)).trans ?_
  cases r1 with
  | error f =>
    refine (hunderway.run_transmitFailed_early rfl hfirst rfl 0).trans (run_zero_of_eq ?_)
    simp [transmitFailed_eq, accepted, presented, acceptTransmit_eq, transmitTrace, macroTransmit, Answer.toOk,
      Phase.idle, CmdOp.transmit, Result.busFail]
  | ok _ =>
    let loaded := imageLoaded slot (exchangeTurns r2.toOk rest) accepted
    have hloaded : Underway loaded := hunderway.loadAcknowledged rfl
    have hsecond : phaseTransaction loaded = .ok (reqSendWord slot) := phaseTransaction_txRts rfl rfl
    refine (hunderway.run_imageLoaded rfl rfl rfl 3).trans ?_
    cases r2 with
    | error f =>
      refine (hloaded.run_transmitFailed rfl hsecond rfl 0).trans (run_zero_of_eq ?_)
      simp [transmitFailed_eq, loaded, imageLoaded_eq, accepted, presented, acceptTransmit_eq, transmitTrace,
        macroTransmit, Answer.toOk, Phase.idle, CmdOp.transmit, Result.busFail]
    | ok _ =>
      refine (hloaded.run_sendRequested rfl rfl rfl 0).trans (run_zero_of_eq ?_)
      simp [sendRequested_eq, loaded, imageLoaded_eq, accepted, presented, acceptTransmit_eq, transmitTrace,
        macroTransmit, Answer.toOk, Phase.idle, CmdOp.transmit, Result.ok]

/-- Settles O45: RX_BUF fails and the rest passes without a step, or RX_CTRL fails, or the frame is decoded. -/
theorem receiveRunIsMacroStep : Obligations.ReceiveRunIsMacroStep := by
  intro s slot id din r1 r2 rest hslot hready hagenda
  rw [answeredSchedule_append] at hagenda
  let presented := provideDin din (keepTurns (exchangeTurns r1.toBytes (exchangeTurns r2.toByte rest)) s)
  let accepted := acceptReceive slot presented
  have hunderway : Underway accepted := underway_acceptReceive (s := presented) hready.2 hslot
  have hfirst : phaseTransaction accepted = .ok (readRxWord slot) := phaseTransaction_rxBuf rfl rfl
  rw [run_succ_next 6 (step_acceptsReceive hready hslot hagenda)]
  cases r1 with
  | error f =>
    refine ⟨_, hunderway.run_receiveFailed_early rfl hfirst rfl 0, ?_⟩
    simp [receiveFailed_eq, accepted, presented, receiveTrace, macroReceive, Answer.toBytes, Phase.idle,
      Result.busFail]
  | ok b =>
    let taken := bufferTaken slot b (exchangeTurns r2.toByte rest) accepted
    have htaken : Underway taken := hunderway.storeImage rfl b
    have hsecond : phaseTransaction taken = .ok (readRegWord s.cfg.rxctrlAddr[slot.toNat]) :=
      phaseTransaction_rxCtrl rfl rfl hslot
    have hrun : core.run 6 accepted = core.run 3 taken := hunderway.run_bufferTaken rfl rfl rfl 3
    cases r2 with
    | error f =>
      refine ⟨_, hrun.trans (htaken.run_receiveFailed rfl hsecond rfl 0), ?_⟩
      simp [receiveFailed_eq, taken, bufferTaken_eq, accepted, presented, receiveTrace, macroReceive, Answer.toBytes,
        Answer.toByte, Phase.idle, Result.busFail]
    | ok v =>
      refine ⟨_, hrun.trans (htaken.run_frameReceived rfl rfl hslot rfl 0), ?_⟩
      simp [frameReceived_eq, taken, bufferTaken_eq, accepted, presented, receiveTrace, macroReceive, Answer.toBytes,
        Answer.toByte, Phase.idle, Result.ok]

/-- Settles O47: a rejected command has ended at once, and an accepted one ends with its first or second answer. -/
theorem answeredCommandEnds : Obligations.AnsweredCommandEnds := by
  intro s cmdw id din r1 r2 rest hrest hagenda
  rw [answeredSchedule_append] at hagenda
  obtain ⟨u, hpresent, hu, hcases⟩ :=
    presentCommand_atRest (s := keepTurns (exchangeTurns r1 (exchangeTurns r2 rest)) s) hrest cmdw id din
  obtain ⟨t, hrun, ht, hended⟩ := run_twoExchanges hcases hu
  have hstep : step s = .next u := (step_of_cons hagenda).trans hpresent
  refine ⟨t, (run_succ_next 6 hstep).trans hrun, ht, hended.atRest_or_faulted, ?_⟩
  exact ht ▸ and_congr hended.atRest_iff noFurtherCommand_iff
end

section
/-! PROOFS. The transactions whose slot names no buffer (42_register_io.md R211, R212, R213). -/

namespace Sys2Proof.Machine

/-- A transaction that is not well formed names no buffer, and the environment refuses it in every state. -/
theorem execTransaction_refused {i : Instr} (hi : isTransaction i = true) (hw : i.wellFormed = false) (s : State) :
    exec i s = .refused .noSuchBuffer := by
  rcases execTransaction_cases i s hi with ⟨-, hrefused⟩ | ⟨hwell, -⟩
  · exact hrefused
  · exact absurd (hw.symm.trans hwell) Bool.false_ne_true

end Sys2Proof.Machine

open Sys2Proof Sys2Proof.Machine

/-- Settles O23: such a slot makes each of the three transactions ill formed. -/
theorem noSuchBufferIsRefused : Obligations.NoSuchBufferIsRefused := by
  intro s slot b
  refine ⟨fun hslot => ?_, fun hslot => ?_⟩
  · have hbad : isTxSlot slot = false := decide_eq_false (Nat.not_lt.mpr hslot)
    exact ⟨execTransaction_refused (i := .loadTx slot b) rfl hbad s,
      execTransaction_refused (i := .reqSend slot) rfl hbad s⟩
  · have hbad : isRxSlot slot = false := decide_eq_false (Nat.not_lt.mpr hslot)
    exact execTransaction_refused (i := .readRx slot) rfl hbad s
end

section
/-! PROOFS. Faults and reset (60_exceptions.md R231, R234, R235; 70_reset_and_hazards.md R260, R261): what raising a fault
writes, what a turn can do in FAULTED, how a failure ends a command, and what a reset writes. -/

namespace Sys2Proof.Machine

section inFaulted
variable {s t : State}

/-- In FAULTED a turn that is no reset leaves the block as it is, but for a response that is still awaited (R235). -/
theorem TurnEffect.of_faulted {e : Turn} (h : TurnEffect s e t) (hp : s.phase = Phase.faulted) (he : e ≠ .reset) :
    (∃ o, t = withSurroundings s o) ∨
    (s.await = true ∧ ∃ r o, t = storeResponse r (withSurroundings s o)) := by
  cases h with
  | outside _ o => exact .inl ⟨o, rfl⟩
  | answered _ r o _ ha => exact .inr ⟨ha, r, o, rfl⟩
  | rejected _ _ _ _ hnot => exact absurd hp hnot
  | transmitAccepted _ _ _ _ _ hidle | receiveAccepted _ _ _ _ hidle => exact absurd (hidle.symm.trans hp) (by decide)
  | issued _ hprogress | consumed _ _ hprogress => exact absurd hp hprogress.phase_ne_faulted
  | reset => exact absurd rfl he

/-- Where the registers agree no response is awaited in FAULTED (R34, R181). -/
theorem RegistersAgree.await_ne_true_of_faulted (h : RegistersAgree s) (hp : s.phase = Phase.faulted) :
    s.await ≠ true :=
  fun ha => (h.await_in_progress ha).phase_ne_faulted hp

end inFaulted

/-- A response taken and the command finished on it, with nothing delivered between, are two events (R181, R188). -/
theorem trace_finish_takeResponse (res : BitVec 1) (r : Response) (s : State) :
    (finish res (takeResponse r s)).trace = s.trace ++ [.resp r, .done res] := by
  simp

end Sys2Proof.Machine

open Sys2Proof Sys2Proof.Machine

/-- Settles O8: in FAULTED no effect of a turn but a reset's writes a register, save an awaited response. -/
theorem faultedIsSticky : Obligations.FaultedIsSticky := by
  intro s t hp hreset hstep
  obtain ⟨rest, -, heffect⟩ := step_effect hstep
  rcases heffect.of_faulted hp hreset with ⟨o, rfl⟩ | ⟨ha, r, o, rfl⟩
  · exact ⟨hp, rfl, rfl, rfl, rfl, rfl, rfl, rfl, rfl, rfl, rfl, rfl, rfl, rfl, fun _ => rfl⟩
  · exact ⟨hp, rfl, rfl, rfl, rfl, rfl, rfl, rfl, rfl, rfl, rfl, rfl, rfl, rfl,
      fun hagree => absurd ha (hagree.await_ne_true_of_faulted hp)⟩

/-- Settles O27: the failure is consumed in whatever phase, and `CMD_OP` says which outputs it leaves open. -/
theorem failureEndsCommand : Obligations.FailureEndsCommand := by
  rintro s f op ⟨-, -, hf⟩ hblock hp ha hr hop
  obtain ⟨rest, hrest⟩ := nextTurn_rest s
  have hends {t : State} (ht : completeFail f (takeResponse (.fail f) (keepTurns rest s)) = .next t) :
      step s = .next t := step_consumes hf hblock hrest hp ha hr ht
  have htrace : s.trace ++ [.resp (.fail f), .done 1] = _ :=
    (trace_finish_takeResponse Result.busFail (.fail f) (keepTurns rest s)).symm
  dsimp only
  rw [hrest, htrace]
  refine ⟨?_, ?_⟩
  · rintro rfl
    exact hends (completeFail_transmit f hop)
  · rintro rfl
    exact ⟨_, _, hends (completeFail_receive f hop)⟩

/-- Settles O49: the reset turn is `resetBlock`, which asks nothing of the state; `BUF` takes the next draws. -/
theorem resetFromAnyState : Obligations.ResetFromAnyState := by
  intro s rest hagenda
  exact ⟨nextDraws s 13, s.draws + 13, step_of_cons hagenda⟩

/-- Settles O7: `raiseFault` is these four writes over `abandonPort`. -/
theorem faultEntryWritesOnlyThese : Obligations.FaultEntryWritesOnlyThese := by
  intro code s
  rfl
end

section
/-! PROOFS. The values after reset (70_reset_and_hazards.md R260). -/

open Sys2Proof Sys2Proof.Machine

/-- Settles O48: each register the spec gives a value is a field of `State.reset` that holds it. -/
theorem resetValues : Obligations.ResetValues :=
  ⟨rfl, rfl, rfl, rfl, rfl, rfl, rfl, rfl, rfl, rfl, rfl, rfl, rfl, rfl⟩
end
